-- ==== Sys2Proof/Word.lean ====
section
/-! DEFINITION. The words of the hardware (00_scope.md R11, 10_state.md R21): instruction words, register
values, addresses, bytes and register indices, and the access widths of 20_memory.md R41. -/

namespace Sys2Proof

/-- One byte of the store (20_memory.md R40). -/
abbrev Byte := BitVec 8

/-- An instruction word, `ILEN` = 32 bits (00_scope.md R11, 10_state.md R20). -/
abbrev Word := BitVec 32

/-- A register value, `XLEN` = 64 bits (00_scope.md R11, 10_state.md R21). -/
abbrev XWord := BitVec 64

/-- A memory address, `ALEN` = 64 bits (00_scope.md R11, 20_memory.md R40). -/
abbrev Addr := BitVec 64

/-- A register index: five bits, so always in range (10_state.md R24). -/
abbrev RegIdx := BitVec 5

/-- The access widths of `MemRead` and `MemWrite` (20_memory.md R41). -/
inductive Width
  | byte
  | half
  | word
  | double
deriving DecidableEq, Repr

/-- The width in bytes, one of 1, 2, 4 and 8 (20_memory.md R41). -/
def Width.bytes : Width → Nat
  | .byte => 1
  | .half => 2
  | .word => 4
  | .double => 8

end Sys2Proof
end

