-- ==== Sys2Proof/Config.lean ====
section
/-! DEFINITION. The parameters of 00_scope.md R11 and 70_reset_and_hazards.md R251, and the values the model
takes for them at reset. The spec leaves no value free ("No source behaviour is treated as `any value`",
93_implementation_defined.md), so there is no opaque constant here. -/

namespace Sys2Proof

/-- The parameters of a launch (R251). They are data of the state, and no step changes them, so a statement about
every state is a statement about every value of them, as R11 asks. -/
structure Params where
  /-- `MEM_SIZE`: bytes `[0, memSize)` are backed (20_memory.md R40). -/
  memSize : Nat
  /-- `HAS_R4`: the four R4 classes are decoded (00_scope.md R11). -/
  hasR4 : Bool
  /-- `RF_BYPASS`: a read port sees a write of the same step (48_read_port_selector.md R205). -/
  rfBypass : Bool
deriving DecidableEq, Repr

namespace Config

/-- What an address that memory does not list reads as. DESIGN CHOICE (log 4), unsafe: `MEM_INIT` is open (R49). -/
def unlistedByte : Byte := 0

/-- The parameters at reset. `HAS_R4` and `RF_BYPASS` are R11's own values; `MEM_SIZE` = 2^64 is a
DESIGN CHOICE (log 3), unsafe: the spec leaves it open. -/
def resetParams : Params := { memSize := 2 ^ 64, hasR4 := false, rfBypass := false }

/-- `PC_INIT` at reset. DESIGN CHOICE (log 2), unsafe: the loader supplies it (R243). -/
def resetPc : Addr := 0

/-- `RF_INIT i` at reset, for every register. DESIGN CHOICE (log 1), unsafe: the spec leaves it open (R241). -/
def resetReg : XWord := 0

end Config

end Sys2Proof
end

