-- ==== Sys2Proof/Machine/State.lean ====
section
/-! DEFINITION. The state of the composed machine (10_state.md R32, 70_reset_and_hazards.md R250 to R252), its faults
and refusals, and the state after reset. State is plain data. -/

namespace Sys2Proof.Machine

/-- The register file: 32 cells of 64 bits, "no banks and no windows" (R21). Cell 0 is never shown (R22). -/
abbrev RegFile := Vector XWord 32

/-- The store (R30, R40): address and byte pairs, addresses strictly rising, no entry equal to what an unlisted
address reads as. -/
abbrev Memory := List Host.Cell

/-- The labelled events that end a run successfully (60_exceptions.md R227, 70_reset_and_hazards.md R252). -/
inductive Event
  | ecall
  | ebreak
deriving DecidableEq, Repr

/-- The kind of a memory access, as an AccessFault records it (60_exceptions.md R221, R223). -/
inductive AccessKind
  | fetch
  | read
  | write
deriving DecidableEq, Repr

/-- The faults of R223. Each ends the run, unsuccessfully, in the state before the faulting step (R225, R252). -/
inductive Fault
  /-- `Fault.unsupported w` (R220, R223): raised by a step whose fetched word matches no row of the table, and by the
  meanings of the four R4 classes (93_implementation_defined.md I11). Safe: the run ends. -/
  | unsupported (w : Word)
  /-- `Fault.accessFault kind a n` (R221, R223): raised by a fetch, a load or a store whose address and width are not
  admitted (20_memory.md R44, R46). Safe: the run ends. -/
  | accessFault (kind : AccessKind) (a : Addr) (n : Nat)
deriving DecidableEq, Repr

/-- Why the model gives no answer. -/
inductive Refusal
  /-- An instruction whose meaning is not written yet, raised by its arm of `exec`; no arm does. Safe: the model stops. -/
  | notModelled (mnemonic : String)
  /-- A step of a run that has ended, raised by `step` (log 8): R252 "DOES NOT SAY WHAT THE HARDWARE DOES AFTER ECALL,
  EBREAK OR A FAULT". Safe: the model stops. -/
  | runEnded (event : Event)
deriving DecidableEq, Repr

/-- Everything the spec gives the machine. The block's own state is `regs` alone (R32); `pc`, `mem` and `event` are
the composed machine's (R250 to R252), and `params` the parameters of the launch (R251). -/
structure State where
  /-- `X` (R21). -/
  regs : RegFile
  /-- The composed machine's pc, a 64-bit value (R250). -/
  pc : Addr
  /-- `M` (R40). -/
  mem : Memory
  /-- The event that has ended the run, none while it goes on (R227, R251, R252). -/
  event : Option Event
  /-- `MEM_SIZE`, `HAS_R4` and `RF_BYPASS` (R11, R251). No step changes them. -/
  params : Params
deriving DecidableEq, Repr

/-- The machine right after reset (R33, R241 to R243, R251): no event pending, and the launch values the spec leaves
open (`RF_INIT`, `PC_INIT`, `MEM_INIT`, `MEM_SIZE`) at the values of log 1 to log 4. -/
def State.reset : State :=
  { regs := Vector.replicate 32 Config.resetReg, pc := Config.resetPc, mem := [], event := none,
    params := Config.resetParams }

end Sys2Proof.Machine
end

