-- ==== Sys2Proof/Machine/Ops.lean ====
section
/-! DEFINITION. The named operations over registers and memory (48_read_port_selector.md R204 and R205, 20_memory.md
R41 to R48), and the shared ways an instruction ends its step: retiring, jumping, branching, ending the run. -/

namespace Sys2Proof.Machine

/-! ### The register file -/

/-- `x[i]` (R204): "register 0 always yields 0 regardless of prior writes". -/
def rfRead (X : RegFile) (i : RegIdx) : XWord := if i = 0 then 0 else X[i.toNat]'i.isLt

/-- The write port (R205): a write to index 0 is accepted and discarded. -/
def rfWrite (X : RegFile) (we : Bool) (wa : RegIdx) (wd : XWord) : RegFile :=
  if we = true ∧ wa ≠ 0 then X.set wa.toNat wd wa.isLt else X

/-- The value of register `i` in a state. -/
def State.x (s : State) (i : RegIdx) : XWord := rfRead s.regs i

/-- One register write, committed at the end of the step (R205, R207). -/
def State.writeReg (s : State) (rd : RegIdx) (v : XWord) : State := { s with regs := rfWrite s.regs true rd v }

/-- `pc <- target` (R250). -/
def State.setPc (s : State) (target : Addr) : State := { s with pc := target }

/-! ### Memory as bytes -/

/-- The byte at an address (R40, R45). -/
def Memory.byteAt : Memory → Nat → Byte
  | [], _ => Config.unlistedByte
  | (k, v) :: m, a => if k = a then v else byteAt m a

/-- The byte at an address set; the canonical form is kept. -/
def Memory.setByte : Memory → Nat → Byte → Memory
  | [], a, b => if b = Config.unlistedByte then [] else [(a, b)]
  | (k, v) :: m, a, b =>
    if a < k then (if b = Config.unlistedByte then (k, v) :: m else (a, b) :: (k, v) :: m)
    else if a = k then (if b = Config.unlistedByte then m else (a, b) :: m)
    else (k, v) :: setByte m a b

/-- The canonical form: addresses strictly rising, no entry equal to what an unlisted address reads as. -/
abbrev Memory.wf (m : Memory) : Prop :=
  m.Pairwise (fun c d => c.1 < d.1) ∧ ∀ c ∈ m, c.2 ≠ Config.unlistedByte

/-- Every listed byte is backed, that is in `[0, MEM_SIZE)` (R40). -/
abbrev Memory.within (m : Memory) (memSize : Nat) : Prop := ∀ c ∈ m, c.1 < memSize

/-- `n` bytes from `a` up, little-endian, zero-extended (R42, R48): the sum of `M[a+k] << (8*k)`. -/
def Memory.loadLE (m : Memory) (a : Nat) : Nat → XWord
  | 0 => 0
  | n + 1 => loadLE m a n ||| ((m.byteAt (a + n)).setWidth 64 <<< (8 * n))

/-- The low `n` bytes of `v` stored from `a` up, little-endian; the bits of `v` above are ignored (R43). -/
def Memory.storeLE (m : Memory) (a : Nat) (v : XWord) : Nat → Memory
  | 0 => m
  | n + 1 => (storeLE m a v n).setByte (a + n) (v.extractLsb' (8 * n) 8)

/-! ### Memory accesses -/

/-- `Ok(a, n)` (R44): aligned to the width, and inside memory, computed without 64-bit wrap-around. -/
def accessOk (memSize : Nat) (a : Addr) (n : Nat) : Bool := a.toNat % n == 0 && a.toNat + n ≤ memSize

/-- `MemRead(a, n)` (R42, R48), an AccessFault where the access is not admitted (R46, R221). -/
def memRead (s : State) (kind : AccessKind) (a : Addr) (w : Width) : Except Fault XWord :=
  if accessOk s.params.memSize a w.bytes then .ok (s.mem.loadLE a.toNat w.bytes)
  else .error (.accessFault kind a w.bytes)

/-- `MemWrite(a, n, v)` (R43), an AccessFault where the access is not admitted (R46, R221). -/
def memWrite (s : State) (a : Addr) (w : Width) (v : XWord) : Except Fault State :=
  if accessOk s.params.memSize a w.bytes then .ok { s with mem := s.mem.storeLE a.toNat v w.bytes }
  else .error (.accessFault .write a w.bytes)

/-! ### How a step ends (R250, steps 3 to 5) -/

/-- The pc after this instruction, `pc + 4` modulo 2^64 (R250). -/
def State.nextPc (s : State) : Addr := s.pc + 4

/-- The instruction writes `v` to `rd` and the pc advances. -/
def retire (rd : RegIdx) (v : XWord) (s : State) : Host.Outcome State Fault Refusal :=
  .next ((s.writeReg rd v).setPc s.nextPc)

/-- The instruction writes nothing and the pc advances. -/
def retireNone (s : State) : Host.Outcome State Fault Refusal := .next (s.setPc s.nextPc)

/-- A jump: the link `pc + 4` is written to `rd` at the end of the step, and the pc is the target (R143, R186). A
target that is not 4-aligned "is not a fault of the jump itself" (R250). -/
def jumpTo (rd : RegIdx) (target : Addr) (s : State) : Host.Outcome State Fault Refusal :=
  .next ((s.writeReg rd s.nextPc).setPc target)

/-- A conditional branch (R170): `pc + offset` when taken, `pc + 4` otherwise. -/
def branchTo (taken : Bool) (offset : XWord) (s : State) : Host.Outcome State Fault Refusal :=
  .next (s.setPc (if taken then s.pc + offset else s.nextPc))

/-- A load (R135): `n` bytes at `a`, extended by the instruction's own rule, to `rd`; a faulting load writes nothing
(R225). -/
def loadTo (rd : RegIdx) (a : Addr) (w : Width) (ext : XWord → XWord) (s : State) : Host.Outcome State Fault Refusal :=
  match memRead s .read a w with
  | .ok v => retire rd (ext v) s
  | .error f => .fault f

/-- A store (R160): the low bytes of `v` at `a`; a faulting store changes no byte (R46). -/
def storeAt (a : Addr) (w : Width) (v : XWord) (s : State) : Host.Outcome State Fault Refusal :=
  match memWrite s a w v with
  | .ok s' => .next (s'.setPc s.nextPc)
  | .error f => .fault f

/-- What this machine has in place of taking an exception. It "has no trap entry. It saves no state, changes no mode
and has no vector" (R225), and no return (R226): ECALL and EBREAK end the run with a labelled event (R227). "The pc
still holds the ending instruction's address, and the ending step commits no write" (R252). -/
def endRun (e : Event) (s : State) : Host.Outcome State Fault Refusal := .next { s with event := some e }

/-- The run ends with a fault; the end state is the state before the step (R225, R252). -/
def raise (f : Fault) : Host.Outcome State Fault Refusal := .fault f

end Sys2Proof.Machine
end

