-- ==== Sys2Proof/Machine/Operands.lean ====
section
/-! DEFINITION. The operand forms: register operands, immediates on the 64-bit bus (30_encoding.md R63 to R67, R71),
shift amounts (R83, R103, R113), effective addresses (R135, R160), and the extensions of a result or of a loaded
value (00_scope.md R14). -/

namespace Sys2Proof.Machine

/-- A 12-bit I or S immediate on the bus (R63, R64, R71). -/
def sext12 (imm : BitVec 12) : XWord := imm.signExtend 64

/-- A 13-bit B offset on the bus (R65). -/
def sext13 (imm : BitVec 13) : XWord := imm.signExtend 64

/-- A 21-bit J offset on the bus (R67). -/
def sext21 (imm : BitVec 21) : XWord := imm.signExtend 64

/-- A U immediate on the bus: 20 bits above twelve zeros, then sign-extended from bit 31 (R66, decision D4). -/
def upperImm (imm20 : BitVec 20) : XWord := (imm20 ++ 0#12).signExtend 64

/-- The effective address `x[rs1] + imm` of a load or store (R135, R160). -/
def effAddr (s : State) (rs1 : RegIdx) (imm : BitVec 12) : Addr := s.x rs1 + sext12 imm

/-- The shift amount of a 64-bit register shift: "Only the low 6 bits of the amount count" (41_r_type.md R103). -/
def amount6 (v : XWord) : Nat := (v.extractLsb' 0 6).toNat

/-- The shift amount of a 32-bit register shift, the low 5 bits (41_r_type.md R113). -/
def amount5 (v : XWord) : Nat := (v.extractLsb' 0 5).toNat

/-- `v[31:0]`. -/
def low32 (v : XWord) : BitVec 32 := v.extractLsb' 0 32

/-- `sext_64` of a 32-bit result (R14). -/
def sext32 (v : BitVec 32) : XWord := v.signExtend 64

/-- `sext_64(v[8n-1:0])`, what LB, LH and LW do to the value that memory returns (R136 to R138). -/
def signExtendLow (w : Width) (v : XWord) : XWord := (v.extractLsb' 0 (8 * w.bytes)).signExtend 64

/-- `zext_64(v[8n-1:0])`, what LBU, LHU and LWU do to it (R140 to R142). -/
def zeroExtendLow (w : Width) (v : XWord) : XWord := (v.extractLsb' 0 (8 * w.bytes)).setWidth 64

end Sys2Proof.Machine
end

