-- ==== Sys2Proof/Machine/Flags.lean ====
section
/-! DEFINITION. The hardware has "no status flags, condition codes or predicates" (10_state.md R27). What stands here
is what another machine would read from flags: the comparisons whose result goes to `rd` (41_r_type.md R104, R105) or
decides a branch (44_b_type.md R171 to R176). -/

namespace Sys2Proof.Machine

/-- `signed(a) < signed(b)` (R104, R173). -/
def ltSigned (a b : XWord) : Bool := a.slt b

/-- `unsigned(a) < unsigned(b)` (R105, R175). -/
def ltUnsigned (a b : XWord) : Bool := a.ult b

/-- A comparison's result in a register: 1 or 0 (R104). -/
def ofBool (c : Bool) : XWord := if c then 1 else 0

end Sys2Proof.Machine
end

