-- ==== Sys2Proof/Machine/Control.lean ====
section
/-! DEFINITION. Control flow and upper immediates: JALR (42_i_type.md R143), BRANCH (44_b_type.md R170 to R176), LUI and
AUIPC (45_u_type.md R180 to R182), JAL (46_j_type.md R186). A target that is not 4-aligned faults at the next fetch,
not here (70_reset_and_hazards.md R250). -/

namespace Sys2Proof.Machine

/-- JALR (R143): bit 0 of `x[rs1] + imm` is cleared; `rs1` is read before the link is written. -/
def execJalr (rd rs1 : RegIdx) (imm : BitVec 12) (s : State) : Host.Outcome State Fault Refusal :=
  jumpTo rd ((s.x rs1 + sext12 imm) &&& ~~~1#64) s

/-- JAL (R186). -/
def execJal (rd : RegIdx) (imm : BitVec 21) (s : State) : Host.Outcome State Fault Refusal :=
  jumpTo rd (s.pc + sext21 imm) s

/-- BEQ (R171). -/
def execBeq (rs1 rs2 : RegIdx) (imm : BitVec 13) (s : State) : Host.Outcome State Fault Refusal :=
  branchTo (s.x rs1 == s.x rs2) (sext13 imm) s

/-- BNE (R172). -/
def execBne (rs1 rs2 : RegIdx) (imm : BitVec 13) (s : State) : Host.Outcome State Fault Refusal :=
  branchTo (s.x rs1 != s.x rs2) (sext13 imm) s

/-- BLT (R173): signed. -/
def execBlt (rs1 rs2 : RegIdx) (imm : BitVec 13) (s : State) : Host.Outcome State Fault Refusal :=
  branchTo (ltSigned (s.x rs1) (s.x rs2)) (sext13 imm) s

/-- BGE (R174): signed. -/
def execBge (rs1 rs2 : RegIdx) (imm : BitVec 13) (s : State) : Host.Outcome State Fault Refusal :=
  branchTo (!ltSigned (s.x rs1) (s.x rs2)) (sext13 imm) s

/-- BLTU (R175): unsigned. -/
def execBltu (rs1 rs2 : RegIdx) (imm : BitVec 13) (s : State) : Host.Outcome State Fault Refusal :=
  branchTo (ltUnsigned (s.x rs1) (s.x rs2)) (sext13 imm) s

/-- BGEU (R176): unsigned. -/
def execBgeu (rs1 rs2 : RegIdx) (imm : BitVec 13) (s : State) : Host.Outcome State Fault Refusal :=
  branchTo (!ltUnsigned (s.x rs1) (s.x rs2)) (sext13 imm) s

/-- LUI (R181). -/
def execLui (rd : RegIdx) (imm20 : BitVec 20) (s : State) : Host.Outcome State Fault Refusal :=
  retire rd (upperImm imm20) s

/-- AUIPC (R182): added to the instruction's own pc. -/
def execAuipc (rd : RegIdx) (imm20 : BitVec 20) (s : State) : Host.Outcome State Fault Refusal :=
  retire rd (s.pc + upperImm imm20) s

end Sys2Proof.Machine
end

