-- ==== Sys2Proof/Machine/LoadStore.lean ====
section
/-! DEFINITION. LOAD (42_i_type.md R135 to R142) and STORE (43_s_type.md R160 to R164): one access at `x[rs1] + imm`
through `MemRead` or `MemWrite`. An access that is not admitted faults and changes nothing (20_memory.md R46). -/

namespace Sys2Proof.Machine

/-- LB (R136): 1 byte, sign-extended. -/
def execLb (rd rs1 : RegIdx) (imm : BitVec 12) (s : State) : Host.Outcome State Fault Refusal :=
  loadTo rd (effAddr s rs1 imm) .byte (signExtendLow .byte) s

/-- LH (R137): 2 bytes, sign-extended. -/
def execLh (rd rs1 : RegIdx) (imm : BitVec 12) (s : State) : Host.Outcome State Fault Refusal :=
  loadTo rd (effAddr s rs1 imm) .half (signExtendLow .half) s

/-- LW (R138): 4 bytes, sign-extended. -/
def execLw (rd rs1 : RegIdx) (imm : BitVec 12) (s : State) : Host.Outcome State Fault Refusal :=
  loadTo rd (effAddr s rs1 imm) .word (signExtendLow .word) s

/-- LD (R139): 8 bytes. -/
def execLd (rd rs1 : RegIdx) (imm : BitVec 12) (s : State) : Host.Outcome State Fault Refusal :=
  loadTo rd (effAddr s rs1 imm) .double id s

/-- LBU (R140): 1 byte, zero-extended. -/
def execLbu (rd rs1 : RegIdx) (imm : BitVec 12) (s : State) : Host.Outcome State Fault Refusal :=
  loadTo rd (effAddr s rs1 imm) .byte (zeroExtendLow .byte) s

/-- LHU (R141): 2 bytes, zero-extended. -/
def execLhu (rd rs1 : RegIdx) (imm : BitVec 12) (s : State) : Host.Outcome State Fault Refusal :=
  loadTo rd (effAddr s rs1 imm) .half (zeroExtendLow .half) s

/-- LWU (R142): 4 bytes, zero-extended. -/
def execLwu (rd rs1 : RegIdx) (imm : BitVec 12) (s : State) : Host.Outcome State Fault Refusal :=
  loadTo rd (effAddr s rs1 imm) .word (zeroExtendLow .word) s

/-- SB (R161): 1 byte of `x[rs2]`. -/
def execSb (rs1 rs2 : RegIdx) (imm : BitVec 12) (s : State) : Host.Outcome State Fault Refusal :=
  storeAt (effAddr s rs1 imm) .byte (s.x rs2) s

/-- SH (R162): 2 bytes of `x[rs2]`. -/
def execSh (rs1 rs2 : RegIdx) (imm : BitVec 12) (s : State) : Host.Outcome State Fault Refusal :=
  storeAt (effAddr s rs1 imm) .half (s.x rs2) s

/-- SW (R163): 4 bytes of `x[rs2]`. -/
def execSw (rs1 rs2 : RegIdx) (imm : BitVec 12) (s : State) : Host.Outcome State Fault Refusal :=
  storeAt (effAddr s rs1 imm) .word (s.x rs2) s

/-- SD (R164): the 8 bytes of `x[rs2]`. -/
def execSd (rs1 rs2 : RegIdx) (imm : BitVec 12) (s : State) : Host.Outcome State Fault Refusal :=
  storeAt (effAddr s rs1 imm) .double (s.x rs2) s

end Sys2Proof.Machine
end

