-- ==== Sys2Proof/Machine/OpImm.lean ====
section
/-! DEFINITION. The I format's arithmetic, OP-IMM and OP-IMM-32 (42_i_type.md R120 to R134): the downstream line of
each rule (log 7). A shift takes its amount from `shamt` or `shamt5`, never from `imm` (R120). -/

namespace Sys2Proof.Machine

/-- ADDI (R121). `addi x0, x0, 0` is the canonical NOP. -/
def execAddi (rd rs1 : RegIdx) (imm : BitVec 12) (s : State) : Host.Outcome State Fault Refusal :=
  retire rd (s.x rs1 + sext12 imm) s

/-- SLTI (R122). -/
def execSlti (rd rs1 : RegIdx) (imm : BitVec 12) (s : State) : Host.Outcome State Fault Refusal :=
  retire rd (ofBool (ltSigned (s.x rs1) (sext12 imm))) s

/-- SLTIU (R123): an unsigned comparison with the sign-extended immediate. -/
def execSltiu (rd rs1 : RegIdx) (imm : BitVec 12) (s : State) : Host.Outcome State Fault Refusal :=
  retire rd (ofBool (ltUnsigned (s.x rs1) (sext12 imm))) s

/-- XORI (R124). -/
def execXori (rd rs1 : RegIdx) (imm : BitVec 12) (s : State) : Host.Outcome State Fault Refusal :=
  retire rd (s.x rs1 ^^^ sext12 imm) s

/-- ORI (R125). -/
def execOri (rd rs1 : RegIdx) (imm : BitVec 12) (s : State) : Host.Outcome State Fault Refusal :=
  retire rd (s.x rs1 ||| sext12 imm) s

/-- ANDI (R126). -/
def execAndi (rd rs1 : RegIdx) (imm : BitVec 12) (s : State) : Host.Outcome State Fault Refusal :=
  retire rd (s.x rs1 &&& sext12 imm) s

/-- SLLI (R127). -/
def execSlli (rd rs1 : RegIdx) (shamt : BitVec 6) (s : State) : Host.Outcome State Fault Refusal :=
  retire rd (s.x rs1 <<< shamt.toNat) s

/-- SRLI (R128): a logical shift. -/
def execSrli (rd rs1 : RegIdx) (shamt : BitVec 6) (s : State) : Host.Outcome State Fault Refusal :=
  retire rd (s.x rs1 >>> shamt.toNat) s

/-- SRAI (R129): an arithmetic shift. -/
def execSrai (rd rs1 : RegIdx) (shamt : BitVec 6) (s : State) : Host.Outcome State Fault Refusal :=
  retire rd ((s.x rs1).sshiftRight shamt.toNat) s

/-- ADDIW (R131): the low 32 bits of the sum, sign-extended. -/
def execAddiw (rd rs1 : RegIdx) (imm : BitVec 12) (s : State) : Host.Outcome State Fault Refusal :=
  retire rd (sext32 (low32 (s.x rs1 + sext12 imm))) s

/-- SLLIW (R132). -/
def execSlliw (rd rs1 : RegIdx) (shamt5 : BitVec 5) (s : State) : Host.Outcome State Fault Refusal :=
  retire rd (sext32 (low32 (s.x rs1) <<< shamt5.toNat)) s

/-- SRLIW (R133): a logical shift of the low 32 bits, sign-extended. -/
def execSrliw (rd rs1 : RegIdx) (shamt5 : BitVec 5) (s : State) : Host.Outcome State Fault Refusal :=
  retire rd (sext32 (low32 (s.x rs1) >>> shamt5.toNat)) s

/-- SRAIW (R134): an arithmetic shift of the low 32 bits, sign-extended. -/
def execSraiw (rd rs1 : RegIdx) (shamt5 : BitVec 5) (s : State) : Host.Outcome State Fault Refusal :=
  retire rd (sext32 ((low32 (s.x rs1)).sshiftRight shamt5.toNat)) s

end Sys2Proof.Machine
end

