-- ==== Sys2Proof/Machine/OpReg.lean ====
section
/-! DEFINITION. The R format, OP and OP-32 (41_r_type.md R100 to R115): each result is the downstream line of the
instruction's rule (log 7), read from the registers as they stand before the write. -/

namespace Sys2Proof.Machine

/-- ADD (R101): the sum modulo 2^64. -/
def execAdd (rd rs1 rs2 : RegIdx) (s : State) : Host.Outcome State Fault Refusal := retire rd (s.x rs1 + s.x rs2) s

/-- SUB (R102): the difference modulo 2^64. -/
def execSub (rd rs1 rs2 : RegIdx) (s : State) : Host.Outcome State Fault Refusal := retire rd (s.x rs1 - s.x rs2) s

/-- SLL (R103). -/
def execSll (rd rs1 rs2 : RegIdx) (s : State) : Host.Outcome State Fault Refusal :=
  retire rd (s.x rs1 <<< amount6 (s.x rs2)) s

/-- SLT (R104). -/
def execSlt (rd rs1 rs2 : RegIdx) (s : State) : Host.Outcome State Fault Refusal :=
  retire rd (ofBool (ltSigned (s.x rs1) (s.x rs2))) s

/-- SLTU (R105). -/
def execSltu (rd rs1 rs2 : RegIdx) (s : State) : Host.Outcome State Fault Refusal :=
  retire rd (ofBool (ltUnsigned (s.x rs1) (s.x rs2))) s

/-- XOR (R106). -/
def execXor (rd rs1 rs2 : RegIdx) (s : State) : Host.Outcome State Fault Refusal := retire rd (s.x rs1 ^^^ s.x rs2) s

/-- SRL (R107): a logical shift. -/
def execSrl (rd rs1 rs2 : RegIdx) (s : State) : Host.Outcome State Fault Refusal :=
  retire rd (s.x rs1 >>> amount6 (s.x rs2)) s

/-- SRA (R108): an arithmetic shift. -/
def execSra (rd rs1 rs2 : RegIdx) (s : State) : Host.Outcome State Fault Refusal :=
  retire rd ((s.x rs1).sshiftRight (amount6 (s.x rs2))) s

/-- OR (R109). -/
def execOr (rd rs1 rs2 : RegIdx) (s : State) : Host.Outcome State Fault Refusal := retire rd (s.x rs1 ||| s.x rs2) s

/-- AND (R110). -/
def execAnd (rd rs1 rs2 : RegIdx) (s : State) : Host.Outcome State Fault Refusal := retire rd (s.x rs1 &&& s.x rs2) s

/-- ADDW (R111): the low 32 bits of the sum, sign-extended. -/
def execAddw (rd rs1 rs2 : RegIdx) (s : State) : Host.Outcome State Fault Refusal :=
  retire rd (sext32 (low32 (s.x rs1 + s.x rs2))) s

/-- SUBW (R112): the low 32 bits of the difference, sign-extended. -/
def execSubw (rd rs1 rs2 : RegIdx) (s : State) : Host.Outcome State Fault Refusal :=
  retire rd (sext32 (low32 (s.x rs1 - s.x rs2))) s

/-- SLLW (R113): `x[rs1][31:0]` shifted left by `x[rs2][4:0]`, 32 bits, sign-extended. -/
def execSllw (rd rs1 rs2 : RegIdx) (s : State) : Host.Outcome State Fault Refusal :=
  retire rd (sext32 (low32 (s.x rs1) <<< amount5 (s.x rs2))) s

/-- SRLW (R114): a logical shift of the low 32 bits, sign-extended. -/
def execSrlw (rd rs1 rs2 : RegIdx) (s : State) : Host.Outcome State Fault Refusal :=
  retire rd (sext32 (low32 (s.x rs1) >>> amount5 (s.x rs2))) s

/-- SRAW (R115): an arithmetic shift of the low 32 bits, sign-extended. -/
def execSraw (rd rs1 rs2 : RegIdx) (s : State) : Host.Outcome State Fault Refusal :=
  retire rd (sext32 ((low32 (s.x rs1)).sshiftRight (amount5 (s.x rs2)))) s

end Sys2Proof.Machine
end

