-- ==== Sys2Proof/Syntax.lean ====
section
/-! DEFINITION. The instructions: one constructor per row of spec/opcode_table.json (30_encoding.md R80), with
the operands the row's format gives it (R62 to R68, R83). Immediates are the raw fields assembled in the order of
their value: 12 bits for I and S, 13 for B and 21 for J (bit 0 is there, and is 0 in a well-formed instruction),
20 for U. -/

namespace Sys2Proof

/-- An instruction of the identification table. -/
inductive Instr
  -- R format: rd, rs1, rs2 (41_r_type.md R100)
  | add (rd rs1 rs2 : RegIdx)                             -- R101
  | sub (rd rs1 rs2 : RegIdx)                             -- R102
  | sll (rd rs1 rs2 : RegIdx)                             -- R103
  | slt (rd rs1 rs2 : RegIdx)                             -- R104
  | sltu (rd rs1 rs2 : RegIdx)                            -- R105
  | xor (rd rs1 rs2 : RegIdx)                             -- R106
  | srl (rd rs1 rs2 : RegIdx)                             -- R107
  | sra (rd rs1 rs2 : RegIdx)                             -- R108
  | or (rd rs1 rs2 : RegIdx)                              -- R109
  | and (rd rs1 rs2 : RegIdx)                             -- R110
  | addw (rd rs1 rs2 : RegIdx)                            -- R111
  | subw (rd rs1 rs2 : RegIdx)                            -- R112
  | sllw (rd rs1 rs2 : RegIdx)                            -- R113
  | srlw (rd rs1 rs2 : RegIdx)                            -- R114
  | sraw (rd rs1 rs2 : RegIdx)                            -- R115
  -- I format: rd, rs1, 12-bit immediate (42_i_type.md R120)
  | addi (rd rs1 : RegIdx) (imm : BitVec 12)              -- R121
  | slti (rd rs1 : RegIdx) (imm : BitVec 12)              -- R122
  | sltiu (rd rs1 : RegIdx) (imm : BitVec 12)             -- R123
  | xori (rd rs1 : RegIdx) (imm : BitVec 12)              -- R124
  | ori (rd rs1 : RegIdx) (imm : BitVec 12)               -- R125
  | andi (rd rs1 : RegIdx) (imm : BitVec 12)              -- R126
  -- I format, shifts by a 6-bit amount
  | slli (rd rs1 : RegIdx) (shamt : BitVec 6)             -- R127
  | srli (rd rs1 : RegIdx) (shamt : BitVec 6)             -- R128
  | srai (rd rs1 : RegIdx) (shamt : BitVec 6)             -- R129
  -- I format, OP-IMM-32
  | addiw (rd rs1 : RegIdx) (imm : BitVec 12)             -- R131
  | slliw (rd rs1 : RegIdx) (shamt5 : BitVec 5)           -- R132
  | srliw (rd rs1 : RegIdx) (shamt5 : BitVec 5)           -- R133
  | sraiw (rd rs1 : RegIdx) (shamt5 : BitVec 5)           -- R134
  -- I format, loads
  | lb (rd rs1 : RegIdx) (imm : BitVec 12)                -- R136
  | lh (rd rs1 : RegIdx) (imm : BitVec 12)                -- R137
  | lw (rd rs1 : RegIdx) (imm : BitVec 12)                -- R138
  | ld (rd rs1 : RegIdx) (imm : BitVec 12)                -- R139
  | lbu (rd rs1 : RegIdx) (imm : BitVec 12)               -- R140
  | lhu (rd rs1 : RegIdx) (imm : BitVec 12)               -- R141
  | lwu (rd rs1 : RegIdx) (imm : BitVec 12)               -- R142
  -- I format, JALR, FENCE, ECALL, EBREAK
  | jalr (rd rs1 : RegIdx) (imm : BitVec 12)              -- R143
  | fence (fm pred succ : BitVec 4) (rs1 rd : RegIdx)     -- R144
  | ecall                                                 -- R146
  | ebreak                                                -- R147
  -- S format: rs1 base, rs2 data, 12-bit offset (43_s_type.md R160)
  | sb (rs1 rs2 : RegIdx) (imm : BitVec 12)               -- R161
  | sh (rs1 rs2 : RegIdx) (imm : BitVec 12)               -- R162
  | sw (rs1 rs2 : RegIdx) (imm : BitVec 12)               -- R163
  | sd (rs1 rs2 : RegIdx) (imm : BitVec 12)               -- R164
  -- B format: rs1, rs2, 13-bit even offset (44_b_type.md R170)
  | beq (rs1 rs2 : RegIdx) (imm : BitVec 13)              -- R171
  | bne (rs1 rs2 : RegIdx) (imm : BitVec 13)              -- R172
  | blt (rs1 rs2 : RegIdx) (imm : BitVec 13)              -- R173
  | bge (rs1 rs2 : RegIdx) (imm : BitVec 13)              -- R174
  | bltu (rs1 rs2 : RegIdx) (imm : BitVec 13)             -- R175
  | bgeu (rs1 rs2 : RegIdx) (imm : BitVec 13)             -- R176
  -- U format: rd, the 20-bit upper immediate (45_u_type.md R180)
  | lui (rd : RegIdx) (imm20 : BitVec 20)                 -- R181
  | auipc (rd : RegIdx) (imm20 : BitVec 20)               -- R182
  -- J format: rd, 21-bit even offset (46_j_type.md R185)
  | jal (rd : RegIdx) (imm : BitVec 21)                   -- R186
  -- R4 format, only under HAS_R4 (47_r4_type.md R190)
  | r4Madd (fd fs1 fs2 fs3 : BitVec 5) (funct2 : BitVec 2) (funct3 : BitVec 3) -- R191
  | r4Msub (fd fs1 fs2 fs3 : BitVec 5) (funct2 : BitVec 2) (funct3 : BitVec 3) -- R192
  | r4Nmsub (fd fs1 fs2 fs3 : BitVec 5) (funct2 : BitVec 2) (funct3 : BitVec 3) -- R193
  | r4Nmadd (fd fs1 fs2 fs3 : BitVec 5) (funct2 : BitVec 2) (funct3 : BitVec 3) -- R194
deriving DecidableEq, Repr

end Sys2Proof
end

