-- ==== Sys2Proof/WellFormed.lean ====
section
/-! DEFINITION. Which instructions a word can stand for: a B or J offset is even, because no bit of the word lands
in its bit 0 (30_encoding.md R65, R67, R69), and an R4 class exists only under `HAS_R4` (R80, 47_r4_type.md). -/

namespace Sys2Proof

/-- The operand checks: bit 0 of a branch or jump offset is 0 (R65, R67). Every other operand is its whole field. -/
def Instr.operandsOk : Instr → Bool
  | .beq _ _ imm | .bne _ _ imm | .blt _ _ imm | .bge _ _ imm | .bltu _ _ imm | .bgeu _ _ imm => !imm.getLsbD 0
  | .jal _ imm => !imm.getLsbD 0
  | .add .. | .sub .. | .sll .. | .slt .. | .sltu .. | .xor .. | .srl .. | .sra .. | .or .. | .and .. => true
  | .addw .. | .subw .. | .sllw .. | .srlw .. | .sraw .. => true
  | .addi .. | .slti .. | .sltiu .. | .xori .. | .ori .. | .andi .. => true
  | .slli .. | .srli .. | .srai .. | .addiw .. | .slliw .. | .srliw .. | .sraiw .. => true
  | .lb .. | .lh .. | .lw .. | .ld .. | .lbu .. | .lhu .. | .lwu .. => true
  | .jalr .. | .fence .. | .ecall | .ebreak => true
  | .sb .. | .sh .. | .sw .. | .sd .. => true
  | .lui .. | .auipc .. => true
  | .r4Madd .. | .r4Msub .. | .r4Nmsub .. | .r4Nmadd .. => true

/-- The R4 classes, whose rows "count only when `HAS_R4`" (R80). -/
def Instr.isR4 : Instr → Bool
  | .r4Madd .. | .r4Msub .. | .r4Nmsub .. | .r4Nmadd .. => true
  | .add .. | .sub .. | .sll .. | .slt .. | .sltu .. | .xor .. | .srl .. | .sra .. | .or .. | .and .. => false
  | .addw .. | .subw .. | .sllw .. | .srlw .. | .sraw .. => false
  | .addi .. | .slti .. | .sltiu .. | .xori .. | .ori .. | .andi .. => false
  | .slli .. | .srli .. | .srai .. | .addiw .. | .slliw .. | .srliw .. | .sraiw .. => false
  | .lb .. | .lh .. | .lw .. | .ld .. | .lbu .. | .lhu .. | .lwu .. => false
  | .jalr .. | .fence .. | .ecall | .ebreak => false
  | .sb .. | .sh .. | .sw .. | .sd .. => false
  | .beq .. | .bne .. | .blt .. | .bge .. | .bltu .. | .bgeu .. => false
  | .lui .. | .auipc .. | .jal .. => false

/-- An instruction the hardware with this `HAS_R4` can be given. -/
def Instr.wf (hasR4 : Bool) (i : Instr) : Bool := i.operandsOk && (hasR4 || !i.isR4)

end Sys2Proof
end

