-- ==== Sys2Proof/Decode.lean ====
section
/-! DEFINITION. IDEC, the instruction decoder (30_encoding.md): the raw field windows (R61), the format views (R62 to
R68), the opcode map (R72), the identification table (R80), the output bundle (R74 to R83), the instruction it
stands for, and the encoder. IDEC is a pure function of the word and of the parameter `HAS_R4` (R18, R91). -/

namespace Sys2Proof

/-- `w[lo+len-1 : lo]`, an unsigned field (00_scope.md R12). -/
def bits (w : Word) (lo len : Nat) : BitVec len := w.extractLsb' lo len

/-! ### The raw fields, R61 -/

def opcodeOf (w : Word) : BitVec 7 := bits w 0 7
def rdOf (w : Word) : RegIdx := bits w 7 5
def funct3Of (w : Word) : BitVec 3 := bits w 12 3
def rs1Of (w : Word) : RegIdx := bits w 15 5
def rs2Of (w : Word) : RegIdx := bits w 20 5
def funct7Of (w : Word) : BitVec 7 := bits w 25 7

/-! ### The immediates on the 64-bit bus, R63 to R67 and R71 -/

/-- The I immediate, `sext_64(w[31:20])` (R63). -/
def immI (w : Word) : XWord := (bits w 20 12).signExtend 64

/-- The S immediate, `sext_64(w[31:25] ++ w[11:7])` (R64). -/
def immS (w : Word) : XWord := (bits w 25 7 ++ bits w 7 5).signExtend 64

/-- The B immediate, `sext_64(w[31] ++ w[7] ++ w[30:25] ++ w[11:8] ++ 0b0)` (R65). -/
def immB (w : Word) : XWord := (bits w 31 1 ++ bits w 7 1 ++ bits w 25 6 ++ bits w 8 4 ++ 0#1).signExtend 64

/-- The exact 32-bit U value, `w[31:12] ++ 0x000` (R66). -/
def immU32Of (w : Word) : BitVec 32 := bits w 12 20 ++ 0#12

/-- The U immediate on the 64-bit bus, `sext_64` of the 32-bit value (R66, decision D4). -/
def immU (w : Word) : XWord := (immU32Of w).signExtend 64

/-- The J immediate, `sext_64(w[31] ++ w[19:12] ++ w[20] ++ w[30:21] ++ 0b0)` (R67). -/
def immJ (w : Word) : XWord := (bits w 31 1 ++ bits w 12 8 ++ bits w 20 1 ++ bits w 21 10 ++ 0#1).signExtend 64

/-! ### The format views, R62 to R68: total functions of every word, whatever its opcode -/

/-- The R view's fields (R62). -/
structure ViewR where
  opcode : BitVec 7
  rd : RegIdx
  funct3 : BitVec 3
  rs1 : RegIdx
  rs2 : RegIdx
  funct7 : BitVec 7
deriving DecidableEq, Repr

/-- The I view's fields (R63). -/
structure ViewI where
  opcode : BitVec 7
  rd : RegIdx
  funct3 : BitVec 3
  rs1 : RegIdx
  imm : XWord
deriving DecidableEq, Repr

/-- The fields of the S view (R64) and of the B view (R65), which have the same names. -/
structure ViewSB where
  opcode : BitVec 7
  funct3 : BitVec 3
  rs1 : RegIdx
  rs2 : RegIdx
  imm : XWord
deriving DecidableEq, Repr

/-- The U view's fields (R66): the exact 32-bit value and its 64-bit widening. -/
structure ViewU where
  opcode : BitVec 7
  rd : RegIdx
  immU32 : BitVec 32
  imm : XWord
deriving DecidableEq, Repr

/-- The J view's fields (R67). -/
structure ViewJ where
  opcode : BitVec 7
  rd : RegIdx
  imm : XWord
deriving DecidableEq, Repr

/-- The R4 view's fields (R68): `fd`, `fs1`, `fs2`, `fs3` name floating-point registers. -/
structure ViewR4 where
  opcode : BitVec 7
  fd : BitVec 5
  funct3 : BitVec 3
  fs1 : BitVec 5
  fs2 : BitVec 5
  funct2 : BitVec 2
  fs3 : BitVec 5
deriving DecidableEq, Repr

def viewR (w : Word) : ViewR :=
  { opcode := opcodeOf w, rd := rdOf w, funct3 := funct3Of w, rs1 := rs1Of w, rs2 := rs2Of w, funct7 := funct7Of w }

def viewI (w : Word) : ViewI :=
  { opcode := opcodeOf w, rd := rdOf w, funct3 := funct3Of w, rs1 := rs1Of w, imm := immI w }

def viewS (w : Word) : ViewSB :=
  { opcode := opcodeOf w, funct3 := funct3Of w, rs1 := rs1Of w, rs2 := rs2Of w, imm := immS w }

def viewB (w : Word) : ViewSB :=
  { opcode := opcodeOf w, funct3 := funct3Of w, rs1 := rs1Of w, rs2 := rs2Of w, imm := immB w }

def viewU (w : Word) : ViewU := { opcode := opcodeOf w, rd := rdOf w, immU32 := immU32Of w, imm := immU w }

def viewJ (w : Word) : ViewJ := { opcode := opcodeOf w, rd := rdOf w, imm := immJ w }

def viewR4 (w : Word) : ViewR4 :=
  { opcode := opcodeOf w, fd := bits w 7 5, funct3 := funct3Of w, fs1 := bits w 15 5, fs2 := bits w 20 5,
    funct2 := bits w 25 2, fs3 := bits w 27 5 }

/-! ### The demultiplexer: opcode to format, R72 and R73 -/

/-- The formats (00_scope.md, glossary), `NONE` for an opcode no format claims. -/
inductive Format
  | R | I | S | B | U | J | R4 | NONE
deriving DecidableEq, Repr

/-- One row of the opcode map of R72. -/
structure OpcodeRow where
  opcode : BitVec 7
  fmt : Format
deriving DecidableEq, Repr

/-- The opcode map of R72. -/
def opcodeMap : List OpcodeRow :=
  [ ⟨0b0000011, .I⟩,   -- LOAD
    ⟨0b0001111, .I⟩,   -- MISC-MEM
    ⟨0b0010011, .I⟩,   -- OP-IMM
    ⟨0b0010111, .U⟩,   -- AUIPC
    ⟨0b0011011, .I⟩,   -- OP-IMM-32
    ⟨0b0100011, .S⟩,   -- STORE
    ⟨0b0110011, .R⟩,   -- OP
    ⟨0b0110111, .U⟩,   -- LUI
    ⟨0b0111011, .R⟩,   -- OP-32
    ⟨0b1100011, .B⟩,   -- BRANCH
    ⟨0b1100111, .I⟩,   -- JALR
    ⟨0b1101111, .J⟩,   -- JAL
    ⟨0b1110011, .I⟩,   -- SYSTEM
    ⟨0b1000011, .R4⟩,  -- MADD, if HAS_R4
    ⟨0b1000111, .R4⟩,  -- MSUB, if HAS_R4
    ⟨0b1001011, .R4⟩,  -- NMSUB, if HAS_R4
    ⟨0b1001111, .R4⟩ ] -- NMADD, if HAS_R4

/-- `FormatOf` (R72): the map's format, `NONE` for every other opcode, and for the R4 opcodes without `HAS_R4`.
It reads the opcode alone (R73). -/
def formatOf (hasR4 : Bool) (opcode : BitVec 7) : Format :=
  match opcodeMap.find? (fun r => r.opcode == opcode) with
  | some r => if r.fmt = .R4 ∧ hasR4 = false then .NONE else r.fmt
  | none => .NONE

/-! ### Identification, R80 and R81 -/

/-- The mnemonics of the identification table (R80), in its order. -/
inductive Mnemonic
  | add | sub | sll | slt | sltu | xor | srl | sra | or | and
  | addw | subw | sllw | srlw | sraw
  | addi | slti | sltiu | xori | ori | andi | slli | srli | srai
  | addiw | slliw | srliw | sraiw
  | lb | lh | lw | ld | lbu | lhu | lwu
  | jalr | fence | ecall | ebreak
  | sb | sh | sw | sd
  | beq | bne | blt | bge | bltu | bgeu
  | lui | auipc | jal
  | r4Madd | r4Msub | r4Nmsub | r4Nmadd
deriving DecidableEq, Repr

/-- The mnemonic as spec/opcode_table.json writes it. -/
def Mnemonic.text : Mnemonic → String
  | .add => "ADD"
  | .sub => "SUB"
  | .sll => "SLL"
  | .slt => "SLT"
  | .sltu => "SLTU"
  | .xor => "XOR"
  | .srl => "SRL"
  | .sra => "SRA"
  | .or => "OR"
  | .and => "AND"
  | .addw => "ADDW"
  | .subw => "SUBW"
  | .sllw => "SLLW"
  | .srlw => "SRLW"
  | .sraw => "SRAW"
  | .addi => "ADDI"
  | .slti => "SLTI"
  | .sltiu => "SLTIU"
  | .xori => "XORI"
  | .ori => "ORI"
  | .andi => "ANDI"
  | .slli => "SLLI"
  | .srli => "SRLI"
  | .srai => "SRAI"
  | .addiw => "ADDIW"
  | .slliw => "SLLIW"
  | .srliw => "SRLIW"
  | .sraiw => "SRAIW"
  | .lb => "LB"
  | .lh => "LH"
  | .lw => "LW"
  | .ld => "LD"
  | .lbu => "LBU"
  | .lhu => "LHU"
  | .lwu => "LWU"
  | .jalr => "JALR"
  | .fence => "FENCE"
  | .ecall => "ECALL"
  | .ebreak => "EBREAK"
  | .sb => "SB"
  | .sh => "SH"
  | .sw => "SW"
  | .sd => "SD"
  | .beq => "BEQ"
  | .bne => "BNE"
  | .blt => "BLT"
  | .bge => "BGE"
  | .bltu => "BLTU"
  | .bgeu => "BGEU"
  | .lui => "LUI"
  | .auipc => "AUIPC"
  | .jal => "JAL"
  | .r4Madd => "R4.MADD"
  | .r4Msub => "R4.MSUB"
  | .r4Nmsub => "R4.NMSUB"
  | .r4Nmadd => "R4.NMADD"

/-- One row of the identification table (R80): a word matches it when `w &&& mask = value`. -/
structure Row where
  mnemonic : Mnemonic
  fmt : Format
  value : Word
  mask : Word
deriving DecidableEq, Repr

/-- Rows of OP (41_r_type.md R101 to R110). -/
def rowsOp : List Row :=
  [ ⟨.add, .R, 0x00000033, 0xFE00707F⟩,
    ⟨.sub, .R, 0x40000033, 0xFE00707F⟩,
    ⟨.sll, .R, 0x00001033, 0xFE00707F⟩,
    ⟨.slt, .R, 0x00002033, 0xFE00707F⟩,
    ⟨.sltu, .R, 0x00003033, 0xFE00707F⟩,
    ⟨.xor, .R, 0x00004033, 0xFE00707F⟩,
    ⟨.srl, .R, 0x00005033, 0xFE00707F⟩,
    ⟨.sra, .R, 0x40005033, 0xFE00707F⟩,
    ⟨.or, .R, 0x00006033, 0xFE00707F⟩,
    ⟨.and, .R, 0x00007033, 0xFE00707F⟩ ]

/-- Rows of OP-32 (R111 to R115). -/
def rowsOp32 : List Row :=
  [ ⟨.addw, .R, 0x0000003B, 0xFE00707F⟩,
    ⟨.subw, .R, 0x4000003B, 0xFE00707F⟩,
    ⟨.sllw, .R, 0x0000103B, 0xFE00707F⟩,
    ⟨.srlw, .R, 0x0000503B, 0xFE00707F⟩,
    ⟨.sraw, .R, 0x4000503B, 0xFE00707F⟩ ]

/-- Rows of OP-IMM (42_i_type.md R121 to R129). -/
def rowsOpImm : List Row :=
  [ ⟨.addi, .I, 0x00000013, 0x0000707F⟩,
    ⟨.slti, .I, 0x00002013, 0x0000707F⟩,
    ⟨.sltiu, .I, 0x00003013, 0x0000707F⟩,
    ⟨.xori, .I, 0x00004013, 0x0000707F⟩,
    ⟨.ori, .I, 0x00006013, 0x0000707F⟩,
    ⟨.andi, .I, 0x00007013, 0x0000707F⟩,
    ⟨.slli, .I, 0x00001013, 0xFC00707F⟩,
    ⟨.srli, .I, 0x00005013, 0xFC00707F⟩,
    ⟨.srai, .I, 0x40005013, 0xFC00707F⟩ ]

/-- Rows of OP-IMM-32 (R131 to R134). -/
def rowsOpImm32 : List Row :=
  [ ⟨.addiw, .I, 0x0000001B, 0x0000707F⟩,
    ⟨.slliw, .I, 0x0000101B, 0xFE00707F⟩,
    ⟨.srliw, .I, 0x0000501B, 0xFE00707F⟩,
    ⟨.sraiw, .I, 0x4000501B, 0xFE00707F⟩ ]

/-- Rows of LOAD (R136 to R142). -/
def rowsLoad : List Row :=
  [ ⟨.lb, .I, 0x00000003, 0x0000707F⟩,
    ⟨.lh, .I, 0x00001003, 0x0000707F⟩,
    ⟨.lw, .I, 0x00002003, 0x0000707F⟩,
    ⟨.ld, .I, 0x00003003, 0x0000707F⟩,
    ⟨.lbu, .I, 0x00004003, 0x0000707F⟩,
    ⟨.lhu, .I, 0x00005003, 0x0000707F⟩,
    ⟨.lwu, .I, 0x00006003, 0x0000707F⟩ ]

/-- Rows of JALR, MISC-MEM and SYSTEM (R143, R144, R146, R147). -/
def rowsOther : List Row :=
  [ ⟨.jalr, .I, 0x00000067, 0x0000707F⟩,
    ⟨.fence, .I, 0x0000000F, 0x0000707F⟩,
    ⟨.ecall, .I, 0x00000073, 0xFFFFFFFF⟩,
    ⟨.ebreak, .I, 0x00100073, 0xFFFFFFFF⟩ ]

/-- Rows of STORE (43_s_type.md R161 to R164). -/
def rowsStore : List Row :=
  [ ⟨.sb, .S, 0x00000023, 0x0000707F⟩,
    ⟨.sh, .S, 0x00001023, 0x0000707F⟩,
    ⟨.sw, .S, 0x00002023, 0x0000707F⟩,
    ⟨.sd, .S, 0x00003023, 0x0000707F⟩ ]

/-- Rows of BRANCH (44_b_type.md R171 to R176). -/
def rowsBranch : List Row :=
  [ ⟨.beq, .B, 0x00000063, 0x0000707F⟩,
    ⟨.bne, .B, 0x00001063, 0x0000707F⟩,
    ⟨.blt, .B, 0x00004063, 0x0000707F⟩,
    ⟨.bge, .B, 0x00005063, 0x0000707F⟩,
    ⟨.bltu, .B, 0x00006063, 0x0000707F⟩,
    ⟨.bgeu, .B, 0x00007063, 0x0000707F⟩ ]

/-- Rows of LUI, AUIPC and JAL (R181, R182, R186). -/
def rowsUpper : List Row :=
  [ ⟨.lui, .U, 0x00000037, 0x0000007F⟩,
    ⟨.auipc, .U, 0x00000017, 0x0000007F⟩,
    ⟨.jal, .J, 0x0000006F, 0x0000007F⟩ ]

/-- Rows of the R4 classes, only under HAS_R4 (47_r4_type.md R191 to R194). -/
def rowsR4 : List Row :=
  [ ⟨.r4Madd, .R4, 0x00000043, 0x0000007F⟩,
    ⟨.r4Msub, .R4, 0x00000047, 0x0000007F⟩,
    ⟨.r4Nmsub, .R4, 0x0000004B, 0x0000007F⟩,
    ⟨.r4Nmadd, .R4, 0x0000004F, 0x0000007F⟩ ]

/-- The identification table of R80, 56 rows. -/
def table : List Row :=
  rowsOp ++ rowsOp32 ++ rowsOpImm ++ rowsOpImm32 ++ rowsLoad ++
    rowsOther ++ rowsStore ++ rowsBranch ++ rowsUpper ++ rowsR4

/-- "A row matches when `(w & mask) = match`" (R80). -/
def Row.matchesWord (r : Row) (w : Word) : Bool := (w &&& r.mask) == r.value

/-- The rows that count: "The R4 rows count only when `HAS_R4`" (R80). -/
def Row.counts (hasR4 : Bool) (r : Row) : Bool := hasR4 || r.fmt != .R4

/-- Identification (R80): the mnemonic of the matching row, or none. No two rows match one word, so which of the
rows is looked at first does not matter. -/
def identify (hasR4 : Bool) (w : Word) : Option Mnemonic :=
  (table.find? (fun r => r.counts hasR4 && r.matchesWord w)).map Row.mnemonic

/-! ### The output bundle, R74 to R83 -/

/-- The outputs of IDEC (R74, R83). -/
structure Decoded where
  fmt : Format
  opcode : BitVec 7
  rd : RegIdx
  funct3 : BitVec 3
  rs1 : RegIdx
  rs2 : RegIdx
  funct7 : BitVec 7
  rs3 : BitVec 5
  funct2 : BitVec 2
  imm : XWord
  immU32 : BitVec 32
  rdValid : Bool
  rs1Valid : Bool
  rs2Valid : Bool
  funct3Valid : Bool
  funct7Valid : Bool
  immValid : Bool
  r4Valid : Bool
  shamt : BitVec 6
  shamt5 : BitVec 5
  funct6 : BitVec 6
  funct12 : BitVec 12
  fenceFm : BitVec 4
  fencePred : BitVec 4
  fenceSucc : BitVec 4
  instr : Option Mnemonic
  unsupported : Bool
deriving DecidableEq, Repr

/-! The valid bits, a function of the format alone: R77 for `rd`, R78 for the rest, R75 for R4. -/

def Format.rdValid : Format → Bool
  | .R | .I | .U | .J => true
  | .S | .B | .R4 | .NONE => false

def Format.rs1Valid : Format → Bool
  | .R | .I | .S | .B => true
  | .U | .J | .R4 | .NONE => false

def Format.rs2Valid : Format → Bool
  | .R | .S | .B => true
  | .I | .U | .J | .R4 | .NONE => false

def Format.funct3Valid : Format → Bool
  | .R | .I | .S | .B | .R4 => true
  | .U | .J | .NONE => false

def Format.funct7Valid : Format → Bool
  | .R => true
  | .I | .S | .B | .U | .J | .R4 | .NONE => false

def Format.immValid : Format → Bool
  | .I | .S | .B | .U | .J => true
  | .R | .R4 | .NONE => false

def Format.r4Valid : Format → Bool
  | .R4 => true
  | .R | .I | .S | .B | .U | .J | .NONE => false

/-- The immediate output of the selected format (R79): zero when the format has none. -/
def selectImm (fmt : Format) (w : Word) : XWord :=
  match fmt with
  | .I => immI w
  | .S => immS w
  | .B => immB w
  | .U => immU w
  | .J => immJ w
  | .R | .R4 | .NONE => 0

/-- IDEC: every output for every word (R74, R91). The raw windows are driven whatever the format (R76), also when
the word is unsupported (R82). -/
def idec (hasR4 : Bool) (w : Word) : Decoded :=
  let fmt := formatOf hasR4 (opcodeOf w)
  let instr := identify hasR4 w
  { fmt := fmt, opcode := opcodeOf w, rd := rdOf w, funct3 := funct3Of w, rs1 := rs1Of w, rs2 := rs2Of w,
    funct7 := funct7Of w, rs3 := bits w 27 5, funct2 := bits w 25 2, imm := selectImm fmt w, immU32 := immU32Of w,
    rdValid := fmt.rdValid, rs1Valid := fmt.rs1Valid, rs2Valid := fmt.rs2Valid, funct3Valid := fmt.funct3Valid,
    funct7Valid := fmt.funct7Valid, immValid := fmt.immValid, r4Valid := fmt.r4Valid,
    shamt := bits w 20 6, shamt5 := bits w 20 5, funct6 := bits w 26 6, funct12 := bits w 20 12,
    fenceFm := bits w 28 4, fencePred := bits w 24 4, fenceSucc := bits w 20 4,
    instr := instr, unsupported := instr.isNone }

/-! ### From the bundle to the instruction the execution stage runs -/

/-- The instruction with the operands that IDEC's outputs carry. The amount of a shift comes from `shamt` or
`shamt5`, "not from `imm`" (42_i_type.md R120). -/
def Decoded.operandsFor (d : Decoded) : Mnemonic → Instr
  | .add => .add d.rd d.rs1 d.rs2
  | .sub => .sub d.rd d.rs1 d.rs2
  | .sll => .sll d.rd d.rs1 d.rs2
  | .slt => .slt d.rd d.rs1 d.rs2
  | .sltu => .sltu d.rd d.rs1 d.rs2
  | .xor => .xor d.rd d.rs1 d.rs2
  | .srl => .srl d.rd d.rs1 d.rs2
  | .sra => .sra d.rd d.rs1 d.rs2
  | .or => .or d.rd d.rs1 d.rs2
  | .and => .and d.rd d.rs1 d.rs2
  | .addw => .addw d.rd d.rs1 d.rs2
  | .subw => .subw d.rd d.rs1 d.rs2
  | .sllw => .sllw d.rd d.rs1 d.rs2
  | .srlw => .srlw d.rd d.rs1 d.rs2
  | .sraw => .sraw d.rd d.rs1 d.rs2
  | .addi => .addi d.rd d.rs1 (d.imm.setWidth 12)
  | .slti => .slti d.rd d.rs1 (d.imm.setWidth 12)
  | .sltiu => .sltiu d.rd d.rs1 (d.imm.setWidth 12)
  | .xori => .xori d.rd d.rs1 (d.imm.setWidth 12)
  | .ori => .ori d.rd d.rs1 (d.imm.setWidth 12)
  | .andi => .andi d.rd d.rs1 (d.imm.setWidth 12)
  | .slli => .slli d.rd d.rs1 d.shamt
  | .srli => .srli d.rd d.rs1 d.shamt
  | .srai => .srai d.rd d.rs1 d.shamt
  | .addiw => .addiw d.rd d.rs1 (d.imm.setWidth 12)
  | .slliw => .slliw d.rd d.rs1 d.shamt5
  | .srliw => .srliw d.rd d.rs1 d.shamt5
  | .sraiw => .sraiw d.rd d.rs1 d.shamt5
  | .lb => .lb d.rd d.rs1 (d.imm.setWidth 12)
  | .lh => .lh d.rd d.rs1 (d.imm.setWidth 12)
  | .lw => .lw d.rd d.rs1 (d.imm.setWidth 12)
  | .ld => .ld d.rd d.rs1 (d.imm.setWidth 12)
  | .lbu => .lbu d.rd d.rs1 (d.imm.setWidth 12)
  | .lhu => .lhu d.rd d.rs1 (d.imm.setWidth 12)
  | .lwu => .lwu d.rd d.rs1 (d.imm.setWidth 12)
  | .jalr => .jalr d.rd d.rs1 (d.imm.setWidth 12)
  | .fence => .fence d.fenceFm d.fencePred d.fenceSucc d.rs1 d.rd
  | .ecall => .ecall
  | .ebreak => .ebreak
  | .sb => .sb d.rs1 d.rs2 (d.imm.setWidth 12)
  | .sh => .sh d.rs1 d.rs2 (d.imm.setWidth 12)
  | .sw => .sw d.rs1 d.rs2 (d.imm.setWidth 12)
  | .sd => .sd d.rs1 d.rs2 (d.imm.setWidth 12)
  | .beq => .beq d.rs1 d.rs2 (d.imm.setWidth 13)
  | .bne => .bne d.rs1 d.rs2 (d.imm.setWidth 13)
  | .blt => .blt d.rs1 d.rs2 (d.imm.setWidth 13)
  | .bge => .bge d.rs1 d.rs2 (d.imm.setWidth 13)
  | .bltu => .bltu d.rs1 d.rs2 (d.imm.setWidth 13)
  | .bgeu => .bgeu d.rs1 d.rs2 (d.imm.setWidth 13)
  | .lui => .lui d.rd (d.immU32.extractLsb' 12 20)
  | .auipc => .auipc d.rd (d.immU32.extractLsb' 12 20)
  | .jal => .jal d.rd (d.imm.setWidth 21)
  | .r4Madd => .r4Madd d.rd d.rs1 d.rs2 d.rs3 d.funct2 d.funct3
  | .r4Msub => .r4Msub d.rd d.rs1 d.rs2 d.rs3 d.funct2 d.funct3
  | .r4Nmsub => .r4Nmsub d.rd d.rs1 d.rs2 d.rs3 d.funct2 d.funct3
  | .r4Nmadd => .r4Nmadd d.rd d.rs1 d.rs2 d.rs3 d.funct2 d.funct3

/-- The instruction of a word, none when it is unsupported (R81). -/
def decode (hasR4 : Bool) (w : Word) : Option Instr :=
  let d := idec hasR4 w
  d.instr.map d.operandsFor

/-! ### Decoding bytes -/

/-- Why a byte string gives no instruction. -/
inductive Rejection
  /-- Fewer than the four bytes of a word: every instruction is one 32-bit word (R60). -/
  | tooShort
  /-- The word matches no row (R81, R220). -/
  | unsupported (w : Word)
deriving DecidableEq, Repr

/-- The word of four bytes, the first in its least significant bits (R60, 20_memory.md R42). -/
def wordOfBytes (b0 b1 b2 b3 : Byte) : Word := b3 ++ b2 ++ b1 ++ b0

/-- The four bytes of a word, least significant first. -/
def bytesOfWord (w : Word) : List Byte := [bits w 0 8, bits w 8 8, bits w 16 8, bits w 24 8]

/-- Decodes the first word of a byte string: the instruction and the bytes after it, or the rejection's name. -/
def decodeBytes (hasR4 : Bool) : List Byte → Except Rejection (Instr × List Byte)
  | b0 :: b1 :: b2 :: b3 :: rest =>
    match decode hasR4 (wordOfBytes b0 b1 b2 b3) with
    | some i => .ok (i, rest)
    | none => .error (.unsupported (wordOfBytes b0 b1 b2 b3))
  | [] | [_] | [_, _] | [_, _, _] => .error .tooShort

/-- The instruction the decoder reads from an opcode-table word, with the parameter `HAS_R4` under which the whole
table counts (log 5). A row's word has at most 32 bits (R60); the bits from `nbits` up are 0. -/
def decodeTableWord (nbits w : Nat) : Option Instr :=
  if nbits ≤ 32 then
    match decodeBytes true (bytesOfWord (BitVec.ofNat 32 (w % 2 ^ nbits))) with
    | .ok (i, _) => some i
    | .error _ => none
  else none

/-! ### The encoder -/

/-- An R-format word: funct7, rs2, rs1, funct3, rd, opcode from bit 31 down (R62). -/
def encodeR (f7 : BitVec 7) (rs2 rs1 : RegIdx) (f3 : BitVec 3) (rd : RegIdx) (op : BitVec 7) : Word :=
  f7 ++ rs2 ++ rs1 ++ f3 ++ rd ++ op

/-- An I-format word: the 12 immediate bits in `w[31:20]` (R63). -/
def encodeI (imm : BitVec 12) (rs1 : RegIdx) (f3 : BitVec 3) (rd : RegIdx) (op : BitVec 7) : Word :=
  imm ++ rs1 ++ f3 ++ rd ++ op

/-- An S-format word: `imm[11:5]` in `w[31:25]`, `imm[4:0]` in `w[11:7]` (R64). -/
def encodeS (imm : BitVec 12) (rs2 rs1 : RegIdx) (f3 : BitVec 3) : Word :=
  imm.extractLsb' 5 7 ++ rs2 ++ rs1 ++ f3 ++ imm.extractLsb' 0 5 ++ (0b0100011 : BitVec 7)

/-- A B-format word: `imm[12]`, `imm[10:5]` above, `imm[4:1]`, `imm[11]` in `w[11:7]` (R65). -/
def encodeB (imm : BitVec 13) (rs2 rs1 : RegIdx) (f3 : BitVec 3) : Word :=
  imm.extractLsb' 12 1 ++ imm.extractLsb' 5 6 ++ rs2 ++ rs1 ++ f3 ++ imm.extractLsb' 1 4 ++ imm.extractLsb' 11 1 ++
    (0b1100011 : BitVec 7)

/-- A U-format word: the 20 bits in `w[31:12]` (R66). -/
def encodeU (imm20 : BitVec 20) (rd : RegIdx) (op : BitVec 7) : Word := imm20 ++ rd ++ op

/-- The J-format word: `imm[20]`, `imm[10:1]`, `imm[11]`, `imm[19:12]` from bit 31 down (R67). -/
def encodeJ (imm : BitVec 21) (rd : RegIdx) : Word :=
  imm.extractLsb' 20 1 ++ imm.extractLsb' 1 10 ++ imm.extractLsb' 11 1 ++ imm.extractLsb' 12 8 ++ rd ++
    (0b1101111 : BitVec 7)

/-- An R4-format word: fs3, funct2, fs2, fs1, funct3, fd, opcode from bit 31 down (R68). -/
def encodeR4 (fs3 : BitVec 5) (funct2 : BitVec 2) (fs2 fs1 : BitVec 5) (f3 : BitVec 3) (fd : BitVec 5)
    (op : BitVec 7) : Word :=
  fs3 ++ funct2 ++ fs2 ++ fs1 ++ f3 ++ fd ++ op

/-- The word of an instruction, from the formats of R62 to R68 and the table's patterns (R80). Only a well-formed
instruction is given back by decoding it. -/
def encode : Instr → Word
  | .add rd rs1 rs2 => encodeR 0b0000000 rs2 rs1 0b000 rd 0b0110011
  | .sub rd rs1 rs2 => encodeR 0b0100000 rs2 rs1 0b000 rd 0b0110011
  | .sll rd rs1 rs2 => encodeR 0b0000000 rs2 rs1 0b001 rd 0b0110011
  | .slt rd rs1 rs2 => encodeR 0b0000000 rs2 rs1 0b010 rd 0b0110011
  | .sltu rd rs1 rs2 => encodeR 0b0000000 rs2 rs1 0b011 rd 0b0110011
  | .xor rd rs1 rs2 => encodeR 0b0000000 rs2 rs1 0b100 rd 0b0110011
  | .srl rd rs1 rs2 => encodeR 0b0000000 rs2 rs1 0b101 rd 0b0110011
  | .sra rd rs1 rs2 => encodeR 0b0100000 rs2 rs1 0b101 rd 0b0110011
  | .or rd rs1 rs2 => encodeR 0b0000000 rs2 rs1 0b110 rd 0b0110011
  | .and rd rs1 rs2 => encodeR 0b0000000 rs2 rs1 0b111 rd 0b0110011
  | .addw rd rs1 rs2 => encodeR 0b0000000 rs2 rs1 0b000 rd 0b0111011
  | .subw rd rs1 rs2 => encodeR 0b0100000 rs2 rs1 0b000 rd 0b0111011
  | .sllw rd rs1 rs2 => encodeR 0b0000000 rs2 rs1 0b001 rd 0b0111011
  | .srlw rd rs1 rs2 => encodeR 0b0000000 rs2 rs1 0b101 rd 0b0111011
  | .sraw rd rs1 rs2 => encodeR 0b0100000 rs2 rs1 0b101 rd 0b0111011
  | .addi rd rs1 imm => encodeI imm rs1 0b000 rd 0b0010011
  | .slti rd rs1 imm => encodeI imm rs1 0b010 rd 0b0010011
  | .sltiu rd rs1 imm => encodeI imm rs1 0b011 rd 0b0010011
  | .xori rd rs1 imm => encodeI imm rs1 0b100 rd 0b0010011
  | .ori rd rs1 imm => encodeI imm rs1 0b110 rd 0b0010011
  | .andi rd rs1 imm => encodeI imm rs1 0b111 rd 0b0010011
  | .slli rd rs1 shamt => encodeI ((0b000000 : BitVec 6) ++ shamt) rs1 0b001 rd 0b0010011
  | .srli rd rs1 shamt => encodeI ((0b000000 : BitVec 6) ++ shamt) rs1 0b101 rd 0b0010011
  | .srai rd rs1 shamt => encodeI ((0b010000 : BitVec 6) ++ shamt) rs1 0b101 rd 0b0010011
  | .addiw rd rs1 imm => encodeI imm rs1 0b000 rd 0b0011011
  | .slliw rd rs1 shamt5 => encodeI ((0b0000000 : BitVec 7) ++ shamt5) rs1 0b001 rd 0b0011011
  | .srliw rd rs1 shamt5 => encodeI ((0b0000000 : BitVec 7) ++ shamt5) rs1 0b101 rd 0b0011011
  | .sraiw rd rs1 shamt5 => encodeI ((0b0100000 : BitVec 7) ++ shamt5) rs1 0b101 rd 0b0011011
  | .lb rd rs1 imm => encodeI imm rs1 0b000 rd 0b0000011
  | .lh rd rs1 imm => encodeI imm rs1 0b001 rd 0b0000011
  | .lw rd rs1 imm => encodeI imm rs1 0b010 rd 0b0000011
  | .ld rd rs1 imm => encodeI imm rs1 0b011 rd 0b0000011
  | .lbu rd rs1 imm => encodeI imm rs1 0b100 rd 0b0000011
  | .lhu rd rs1 imm => encodeI imm rs1 0b101 rd 0b0000011
  | .lwu rd rs1 imm => encodeI imm rs1 0b110 rd 0b0000011
  | .jalr rd rs1 imm => encodeI imm rs1 0b000 rd 0b1100111
  | .fence fm pred succ rs1 rd => encodeI (fm ++ pred ++ succ) rs1 0b000 rd 0b0001111
  | .ecall => encodeI 0b000000000000 0 0b000 0 0b1110011
  | .ebreak => encodeI 0b000000000001 0 0b000 0 0b1110011
  | .sb rs1 rs2 imm => encodeS imm rs2 rs1 0b000
  | .sh rs1 rs2 imm => encodeS imm rs2 rs1 0b001
  | .sw rs1 rs2 imm => encodeS imm rs2 rs1 0b010
  | .sd rs1 rs2 imm => encodeS imm rs2 rs1 0b011
  | .beq rs1 rs2 imm => encodeB imm rs2 rs1 0b000
  | .bne rs1 rs2 imm => encodeB imm rs2 rs1 0b001
  | .blt rs1 rs2 imm => encodeB imm rs2 rs1 0b100
  | .bge rs1 rs2 imm => encodeB imm rs2 rs1 0b101
  | .bltu rs1 rs2 imm => encodeB imm rs2 rs1 0b110
  | .bgeu rs1 rs2 imm => encodeB imm rs2 rs1 0b111
  | .lui rd imm20 => encodeU imm20 rd 0b0110111
  | .auipc rd imm20 => encodeU imm20 rd 0b0010111
  | .jal rd imm => encodeJ imm rd
  | .r4Madd fd fs1 fs2 fs3 funct2 funct3 => encodeR4 fs3 funct2 fs2 fs1 funct3 fd 0b1000011
  | .r4Msub fd fs1 fs2 fs3 funct2 funct3 => encodeR4 fs3 funct2 fs2 fs1 funct3 fd 0b1000111
  | .r4Nmsub fd fs1 fs2 fs3 funct2 funct3 => encodeR4 fs3 funct2 fs2 fs1 funct3 fd 0b1001011
  | .r4Nmadd fd fs1 fs2 fs3 funct2 funct3 => encodeR4 fs3 funct2 fs2 fs1 funct3 fd 0b1001111

/-- The mnemonic of an instruction's row. -/
def Instr.mnemonic : Instr → Mnemonic
  | .add .. => .add
  | .sub .. => .sub
  | .sll .. => .sll
  | .slt .. => .slt
  | .sltu .. => .sltu
  | .xor .. => .xor
  | .srl .. => .srl
  | .sra .. => .sra
  | .or .. => .or
  | .and .. => .and
  | .addw .. => .addw
  | .subw .. => .subw
  | .sllw .. => .sllw
  | .srlw .. => .srlw
  | .sraw .. => .sraw
  | .addi .. => .addi
  | .slti .. => .slti
  | .sltiu .. => .sltiu
  | .xori .. => .xori
  | .ori .. => .ori
  | .andi .. => .andi
  | .slli .. => .slli
  | .srli .. => .srli
  | .srai .. => .srai
  | .addiw .. => .addiw
  | .slliw .. => .slliw
  | .srliw .. => .srliw
  | .sraiw .. => .sraiw
  | .lb .. => .lb
  | .lh .. => .lh
  | .lw .. => .lw
  | .ld .. => .ld
  | .lbu .. => .lbu
  | .lhu .. => .lhu
  | .lwu .. => .lwu
  | .jalr .. => .jalr
  | .fence .. => .fence
  | .ecall => .ecall
  | .ebreak => .ebreak
  | .sb .. => .sb
  | .sh .. => .sh
  | .sw .. => .sw
  | .sd .. => .sd
  | .beq .. => .beq
  | .bne .. => .bne
  | .blt .. => .blt
  | .bge .. => .bge
  | .bltu .. => .bltu
  | .bgeu .. => .bgeu
  | .lui .. => .lui
  | .auipc .. => .auipc
  | .jal .. => .jal
  | .r4Madd .. => .r4Madd
  | .r4Msub .. => .r4Msub
  | .r4Nmsub .. => .r4Nmsub
  | .r4Nmadd .. => .r4Nmadd

end Sys2Proof
end

