-- ==== Sys2Proof/Machine/System.lean ====
section
/-! DEFINITION. FENCE (42_i_type.md R144, 20_memory.md R55), ECALL and EBREAK (R146, R147, 60_exceptions.md R227), and
the four R4 classes (47_r4_type.md R190 to R194, 93_implementation_defined.md I11). -/

namespace Sys2Proof.Machine

/-- FENCE (R144): "no memory effect" under the sequential memory (R55), whatever its fields hold; `rd` is not written
(R77). -/
def execFence (_fm _pred _succ : BitVec 4) (_rs1 _rd : RegIdx) (s : State) : Host.Outcome State Fault Refusal :=
  retireNone s

/-- ECALL (R146): the run ends with `Event.ecall` (R227). -/
def execEcall (s : State) : Host.Outcome State Fault Refusal := endRun .ecall s

/-- EBREAK (R147): the run ends with `Event.ebreak` (R227). -/
def execEbreak (s : State) : Host.Outcome State Fault Refusal := endRun .ebreak s

/-! The R4 classes are identified, and no more: their registers belong to the out-of-scope floating-point unit (R29),
and "a composed model has no semantics for it, and it ends the run with `Fault.unsupported w`" (I11). -/

/-- R4.MADD (R191). -/
def execR4Madd (fd fs1 fs2 fs3 : BitVec 5) (funct2 : BitVec 2) (funct3 : BitVec 3) (_s : State) :
    Host.Outcome State Fault Refusal :=
  raise (.unsupported (encode (.r4Madd fd fs1 fs2 fs3 funct2 funct3)))

/-- R4.MSUB (R192). -/
def execR4Msub (fd fs1 fs2 fs3 : BitVec 5) (funct2 : BitVec 2) (funct3 : BitVec 3) (_s : State) :
    Host.Outcome State Fault Refusal :=
  raise (.unsupported (encode (.r4Msub fd fs1 fs2 fs3 funct2 funct3)))

/-- R4.NMSUB (R193). -/
def execR4Nmsub (fd fs1 fs2 fs3 : BitVec 5) (funct2 : BitVec 2) (funct3 : BitVec 3) (_s : State) :
    Host.Outcome State Fault Refusal :=
  raise (.unsupported (encode (.r4Nmsub fd fs1 fs2 fs3 funct2 funct3)))

/-- R4.NMADD (R194). -/
def execR4Nmadd (fd fs1 fs2 fs3 : BitVec 5) (funct2 : BitVec 2) (funct3 : BitVec 3) (_s : State) :
    Host.Outcome State Fault Refusal :=
  raise (.unsupported (encode (.r4Nmadd fd fs1 fs2 fs3 funct2 funct3)))

end Sys2Proof.Machine
end

