-- ==== Sys2Proof/Machine/Fetch.lean ====
section
/-! DEFINITION. Steps 1 and 2 of the composed machine (70_reset_and_hazards.md R250): the fetch and the decode, with the
priority of 60_exceptions.md R224; and the placing of a word where the next fetch reads it. -/

namespace Sys2Proof.Machine

/-- `w := MemRead(pc, 4)` (20_memory.md R50); at a pc that is not admitted, `AccessFault` of kind fetch. -/
def fetchWord (s : State) : Except Fault Word :=
  match memRead s .fetch s.pc .word with
  | .ok v => .ok (v.setWidth 32)
  | .error f => .error f

/-- What fetch and decode give the execution stage. -/
inductive Fetched
  | run (i : Instr)
  | fault (f : Fault)
  | refuse (r : Refusal)
deriving DecidableEq, Repr

/-- Fetch and decode. A run that has ended takes no further step (R252, log 8). A fetch fault comes first, "No word
reaches IDEC" (R224); then `Unsupported`. -/
def fetchDecode (s : State) : Fetched :=
  match s.event with
  | some e => .refuse (.runEnded e)
  | none =>
    match fetchWord s with
    | .error f => .fault f
    | .ok w =>
      match decode s.params.hasR4 w with
      | some i => .run i
      | none => .fault (.unsupported w)

/-- The bits of a table word, none from `nbits` up. -/
def tableWord (nbits w : Nat) : Word := BitVec.ofNat 32 (w % 2 ^ nbits)

/-- The state with the word stored at the pc, where the next fetch reads it, and with `HAS_R4` set if the word is one
of an R4 class, which is fetched as an instruction only then (log 5). A pc that no fetch is admitted at is left alone. -/
def placeWord (s : State) (w : Word) : State :=
  match memWrite s s.pc .word (w.setWidth 64) with
  | .ok s' =>
    { s' with params := { s'.params with hasR4 := s'.params.hasR4 || formatOf true (opcodeOf w) == .R4 } }
  | .error _ => s

end Sys2Proof.Machine
end

