-- ==== Sys2Proof/Machine/Step.lean ====
section
/-! DEFINITION. One step of the composed machine (70_reset_and_hazards.md R250). -/

namespace Sys2Proof.Machine

/-- Fetch and decode, then execute: a next state, a fault that ends the run, or a refusal. -/
def step (s : State) : Host.Outcome State Fault Refusal :=
  match fetchDecode s with
  | .run i => exec i s
  | .fault f => .fault f
  | .refuse r => .refused r

/-- The state with an opcode-table word where `step` fetches next (log 11). -/
def State.withFetchWord (s : State) (nbits w : Nat) : State := placeWord s (tableWord nbits w)

end Sys2Proof.Machine
end

