-- ==== Sys2Proof/Machine/RegNames.lean ====
section
/-! DEFINITION. The register names (10_state.md R23): 32 names, 1:1 with the indices 0 to 31. `fp` is an assembler
spelling of `s0` only and is no value of the enumeration. -/

namespace Sys2Proof.Machine

/-- RegisterAlias (R23): `zero` and `s0` are the source's names, the others the standard ABI's. -/
inductive RegName
  | zero | ra | sp | gp | tp | t0 | t1 | t2 | s0 | s1 | a0 | a1 | a2 | a3 | a4 | a5
  | a6 | a7 | s2 | s3 | s4 | s5 | s6 | s7 | s8 | s9 | s10 | s11 | t3 | t4 | t5 | t6
deriving DecidableEq, Repr

/-- The names in the order of their indices. -/
def RegName.all : List RegName :=
  [.zero, .ra, .sp, .gp, .tp, .t0, .t1, .t2, .s0, .s1, .a0, .a1, .a2, .a3, .a4, .a5] ++
  [.a6, .a7, .s2, .s3, .s4, .s5, .s6, .s7, .s8, .s9, .s10, .s11, .t3, .t4, .t5, .t6]

/-- The name of an index. -/
def RegName.ofIdx (i : RegIdx) : RegName := RegName.all.getD i.toNat .zero

/-- The index of a name. -/
def RegName.idx : RegName → RegIdx
  | .zero => 0 | .ra => 1 | .sp => 2 | .gp => 3 | .tp => 4 | .t0 => 5 | .t1 => 6 | .t2 => 7
  | .s0 => 8 | .s1 => 9 | .a0 => 10 | .a1 => 11 | .a2 => 12 | .a3 => 13 | .a4 => 14 | .a5 => 15
  | .a6 => 16 | .a7 => 17 | .s2 => 18 | .s3 => 19 | .s4 => 20 | .s5 => 21 | .s6 => 22 | .s7 => 23
  | .s8 => 24 | .s9 => 25 | .s10 => 26 | .s11 => 27 | .t3 => 28 | .t4 => 29 | .t5 => 30 | .t6 => 31

/-- The spelling in assembly (30_encoding.md R89). -/
def RegName.text : RegName → String
  | .zero => "zero" | .ra => "ra" | .sp => "sp" | .gp => "gp" | .tp => "tp" | .t0 => "t0" | .t1 => "t1" | .t2 => "t2"
  | .s0 => "s0" | .s1 => "s1" | .a0 => "a0" | .a1 => "a1" | .a2 => "a2" | .a3 => "a3" | .a4 => "a4" | .a5 => "a5"
  | .a6 => "a6" | .a7 => "a7" | .s2 => "s2" | .s3 => "s3" | .s4 => "s4" | .s5 => "s5" | .s6 => "s6" | .s7 => "s7"
  | .s8 => "s8" | .s9 => "s9" | .s10 => "s10" | .s11 => "s11" | .t3 => "t3" | .t4 => "t4" | .t5 => "t5" | .t6 => "t6"

/-- The category of a name, the column of R23's table. -/
inductive RegCategory
  | hardwiredZero | returnAddress | stackPointer | globalPointer | threadPointer | temporary | saved | argument
deriving DecidableEq, Repr

def RegName.category : RegName → RegCategory
  | .zero => .hardwiredZero | .ra => .returnAddress | .sp => .stackPointer | .gp => .globalPointer
  | .tp => .threadPointer
  | .t0 | .t1 | .t2 | .t3 | .t4 | .t5 | .t6 => .temporary
  | .s0 | .s1 | .s2 | .s3 | .s4 | .s5 | .s6 | .s7 | .s8 | .s9 | .s10 | .s11 => .saved
  | .a0 | .a1 | .a2 | .a3 | .a4 | .a5 | .a6 | .a7 => .argument

end Sys2Proof.Machine
end

