-- ==== Sys2Proof/Machine/Assembler.lean ====
section
/-! DEFINITION. The assembler's side: the operand orders of 30_encoding.md R89, and the pseudo-instructions of R90 with
their expansions. IDEC never sees a pseudo-instruction, "only the words they expand to" (R90). -/

namespace Sys2Proof.Machine

/-! ### Assembly text, R89 -/

/-- A register operand. -/
def regText (i : RegIdx) : String := (RegName.ofIdx i).text

/-- An operand in parentheses after its offset, `imm(rs1)`. -/
def offsetText {n : Nat} (imm : BitVec n) (rs1 : RegIdx) : String := toString imm.toInt ++ "(" ++ regText rs1 ++ ")"

/-- One FENCE set "written with the letters of `iorw`" (R89): bits I, O, R, W from 3 to 0 (R83); an empty set is 0
(log 14). -/
def fenceSetText (set : BitVec 4) : String :=
  let letters := (if set.getLsbD 3 then "i" else "") ++ (if set.getLsbD 2 then "o" else "") ++
    (if set.getLsbD 1 then "r" else "") ++ (if set.getLsbD 0 then "w" else "")
  if set = 0 then "0" else letters

def text3 (op a b c : String) : String := op ++ " " ++ a ++ ", " ++ b ++ ", " ++ c
def text2 (op a b : String) : String := op ++ " " ++ a ++ ", " ++ b

/-- `op rd, rs1, rs2`. -/
def textR (op : String) (rd rs1 rs2 : RegIdx) : String := text3 op (regText rd) (regText rs1) (regText rs2)
/-- `op rd, rs1, imm`, the immediate signed. -/
def textI (op : String) (rd rs1 : RegIdx) (imm : BitVec 12) : String :=
  text3 op (regText rd) (regText rs1) (toString imm.toInt)
/-- `op rd, rs1, shamt`. -/
def textShift {n : Nat} (op : String) (rd rs1 : RegIdx) (shamt : BitVec n) : String :=
  text3 op (regText rd) (regText rs1) (toString shamt.toNat)
/-- `op r, imm(rs1)`: loads and JALR with `rd`, stores with `rs2`. -/
def textMem (op : String) (r rs1 : RegIdx) (imm : BitVec 12) : String := text2 op (regText r) (offsetText imm rs1)
/-- `op rs1, rs2, offset`. -/
def textB (op : String) (rs1 rs2 : RegIdx) (imm : BitVec 13) : String :=
  text3 op (regText rs1) (regText rs2) (toString imm.toInt)
/-- `op rd, imm20`. -/
def textU (op : String) (rd : RegIdx) (imm20 : BitVec 20) : String := text2 op (regText rd) (toString imm20.toNat)
/-- An R4 class with its registers by number; R89 gives R4 no syntax (log 14). -/
def textR4 (op : String) (fd fs1 fs2 fs3 : BitVec 5) : String :=
  text3 op ("f" ++ toString fd.toNat) ("f" ++ toString fs1.toNat)
    ("f" ++ toString fs2.toNat ++ ", f" ++ toString fs3.toNat)

/-- An instruction in the syntax of R89. FENCE shows its two sets only, as R89's row does. -/
def asmText : Instr → String
  | .add rd rs1 rs2 => textR "add" rd rs1 rs2
  | .sub rd rs1 rs2 => textR "sub" rd rs1 rs2
  | .sll rd rs1 rs2 => textR "sll" rd rs1 rs2
  | .slt rd rs1 rs2 => textR "slt" rd rs1 rs2
  | .sltu rd rs1 rs2 => textR "sltu" rd rs1 rs2
  | .xor rd rs1 rs2 => textR "xor" rd rs1 rs2
  | .srl rd rs1 rs2 => textR "srl" rd rs1 rs2
  | .sra rd rs1 rs2 => textR "sra" rd rs1 rs2
  | .or rd rs1 rs2 => textR "or" rd rs1 rs2
  | .and rd rs1 rs2 => textR "and" rd rs1 rs2
  | .addw rd rs1 rs2 => textR "addw" rd rs1 rs2
  | .subw rd rs1 rs2 => textR "subw" rd rs1 rs2
  | .sllw rd rs1 rs2 => textR "sllw" rd rs1 rs2
  | .srlw rd rs1 rs2 => textR "srlw" rd rs1 rs2
  | .sraw rd rs1 rs2 => textR "sraw" rd rs1 rs2
  | .addi rd rs1 imm => textI "addi" rd rs1 imm
  | .slti rd rs1 imm => textI "slti" rd rs1 imm
  | .sltiu rd rs1 imm => textI "sltiu" rd rs1 imm
  | .xori rd rs1 imm => textI "xori" rd rs1 imm
  | .ori rd rs1 imm => textI "ori" rd rs1 imm
  | .andi rd rs1 imm => textI "andi" rd rs1 imm
  | .slli rd rs1 shamt => textShift "slli" rd rs1 shamt
  | .srli rd rs1 shamt => textShift "srli" rd rs1 shamt
  | .srai rd rs1 shamt => textShift "srai" rd rs1 shamt
  | .addiw rd rs1 imm => textI "addiw" rd rs1 imm
  | .slliw rd rs1 shamt5 => textShift "slliw" rd rs1 shamt5
  | .srliw rd rs1 shamt5 => textShift "srliw" rd rs1 shamt5
  | .sraiw rd rs1 shamt5 => textShift "sraiw" rd rs1 shamt5
  | .lb rd rs1 imm => textMem "lb" rd rs1 imm
  | .lh rd rs1 imm => textMem "lh" rd rs1 imm
  | .lw rd rs1 imm => textMem "lw" rd rs1 imm
  | .ld rd rs1 imm => textMem "ld" rd rs1 imm
  | .lbu rd rs1 imm => textMem "lbu" rd rs1 imm
  | .lhu rd rs1 imm => textMem "lhu" rd rs1 imm
  | .lwu rd rs1 imm => textMem "lwu" rd rs1 imm
  | .jalr rd rs1 imm => textMem "jalr" rd rs1 imm
  | .fence _ pred succ _ _ => text2 "fence" (fenceSetText pred) (fenceSetText succ)
  | .ecall => "ecall"
  | .ebreak => "ebreak"
  | .sb rs1 rs2 imm => textMem "sb" rs2 rs1 imm
  | .sh rs1 rs2 imm => textMem "sh" rs2 rs1 imm
  | .sw rs1 rs2 imm => textMem "sw" rs2 rs1 imm
  | .sd rs1 rs2 imm => textMem "sd" rs2 rs1 imm
  | .beq rs1 rs2 imm => textB "beq" rs1 rs2 imm
  | .bne rs1 rs2 imm => textB "bne" rs1 rs2 imm
  | .blt rs1 rs2 imm => textB "blt" rs1 rs2 imm
  | .bge rs1 rs2 imm => textB "bge" rs1 rs2 imm
  | .bltu rs1 rs2 imm => textB "bltu" rs1 rs2 imm
  | .bgeu rs1 rs2 imm => textB "bgeu" rs1 rs2 imm
  | .lui rd imm20 => textU "lui" rd imm20
  | .auipc rd imm20 => textU "auipc" rd imm20
  | .jal rd imm => text2 "jal" (regText rd) (toString imm.toInt)
  | .r4Madd fd fs1 fs2 fs3 _ _ => textR4 "r4.madd" fd fs1 fs2 fs3
  | .r4Msub fd fs1 fs2 fs3 _ _ => textR4 "r4.msub" fd fs1 fs2 fs3
  | .r4Nmsub fd fs1 fs2 fs3 _ _ => textR4 "r4.nmsub" fd fs1 fs2 fs3
  | .r4Nmadd fd fs1 fs2 fs3 _ _ => textR4 "r4.nmadd" fd fs1 fs2 fs3

/-! ### Pseudo-instructions, R90 -/

/-- `lo12 = sext(imm[11:0])` of a 32-bit value (R90). -/
def lo12 (imm : BitVec 32) : BitVec 12 := imm.extractLsb' 0 12

/-- `hi20 = (imm - lo12) >> 12`, with `lo12` sign-extended (R90). -/
def hi20 (imm : BitVec 32) : BitVec 20 := (imm - (lo12 imm).signExtend 32).extractLsb' 12 20

/-- The pseudo-instructions of R90's table, in its order. A symbol stands as its 32-bit offset from the pc of the
expansion's first instruction (log 15). -/
inductive Pseudo
  | nop
  | liSmall (rd : RegIdx) (imm : BitVec 12)
  | liWide (rd : RegIdx) (imm : BitVec 32)
  | mv (rd rs : RegIdx)
  | not (rd rs : RegIdx)
  | neg (rd rs : RegIdx)
  | negw (rd rs : RegIdx)
  | sextw (rd rs : RegIdx)
  | seqz (rd rs : RegIdx)
  | snez (rd rs : RegIdx)
  | sltz (rd rs : RegIdx)
  | sgtz (rd rs : RegIdx)
  | beqz (rs : RegIdx) (off : BitVec 13)
  | bnez (rs : RegIdx) (off : BitVec 13)
  | blez (rs : RegIdx) (off : BitVec 13)
  | bgez (rs : RegIdx) (off : BitVec 13)
  | bltz (rs : RegIdx) (off : BitVec 13)
  | bgtz (rs : RegIdx) (off : BitVec 13)
  | bgt (rs rt : RegIdx) (off : BitVec 13)
  | ble (rs rt : RegIdx) (off : BitVec 13)
  | bgtu (rs rt : RegIdx) (off : BitVec 13)
  | bleu (rs rt : RegIdx) (off : BitVec 13)
  | j (off : BitVec 21)
  | jalLink (off : BitVec 21)
  | jr (rs : RegIdx)
  | jalrLink (rs : RegIdx)
  | ret
  | call (off : BitVec 32)
  | tail (off : BitVec 32)
  | la (rd : RegIdx) (off : BitVec 32)
  | fence
deriving DecidableEq, Repr

/-- The expansion column of R90's table. -/
def Pseudo.expand : Pseudo → List Instr
  | .nop => [.addi 0 0 0]
  | .liSmall rd imm => [.addi rd 0 imm]
  | .liWide rd imm => [.lui rd (hi20 imm), .addiw rd rd (lo12 imm)]
  | .mv rd rs => [.addi rd rs 0]
  | .not rd rs => [.xori rd rs (-1)]
  | .neg rd rs => [.sub rd 0 rs]
  | .negw rd rs => [.subw rd 0 rs]
  | .sextw rd rs => [.addiw rd rs 0]
  | .seqz rd rs => [.sltiu rd rs 1]
  | .snez rd rs => [.sltu rd 0 rs]
  | .sltz rd rs => [.slt rd rs 0]
  | .sgtz rd rs => [.slt rd 0 rs]
  | .beqz rs off => [.beq rs 0 off]
  | .bnez rs off => [.bne rs 0 off]
  | .blez rs off => [.bge 0 rs off]
  | .bgez rs off => [.bge rs 0 off]
  | .bltz rs off => [.blt rs 0 off]
  | .bgtz rs off => [.blt 0 rs off]
  | .bgt rs rt off => [.blt rt rs off]
  | .ble rs rt off => [.bge rt rs off]
  | .bgtu rs rt off => [.bltu rt rs off]
  | .bleu rs rt off => [.bgeu rt rs off]
  | .j off => [.jal 0 off]
  | .jalLink off => [.jal 1 off]
  | .jr rs => [.jalr 0 rs 0]
  | .jalrLink rs => [.jalr 1 rs 0]
  | .ret => [.jalr 0 1 0]
  | .call off => [.auipc 1 (hi20 off), .jalr 1 1 (lo12 off)]
  | .tail off => [.auipc 6 (hi20 off), .jalr 0 6 (lo12 off)]
  | .la rd off => [.auipc rd (hi20 off), .addi rd rd (lo12 off)]
  | .fence => [.fence 0 0b1111 0b1111 0 0]

end Sys2Proof.Machine
end

