-- ==== Sys2Proof/Machine/Launch.lean ====
section
/-! DEFINITION. The launch of a run (70_reset_and_hazards.md R251): the loader's memory and first pc, the registers'
initial values and the parameters. -/

namespace Sys2Proof.Machine

/-- The tuple of R251 with its parameters. -/
structure Launch where
  /-- `MEM_INIT`: the bytes the loader wrote (20_memory.md R49); a later entry of one address wins (log 12). -/
  memInit : List Host.Cell
  /-- `PC_INIT` (R243). -/
  pcInit : Addr
  /-- `RF_INIT` (R241). -/
  rfInit : RegFile
  params : Params
deriving DecidableEq, Repr

/-- The loader's bytes as memory, none of them outside `[0, MEM_SIZE)` (R40). -/
def loadImage (memSize : Nat) (cells : List Host.Cell) : Memory :=
  cells.foldl (fun m c => if c.1 < memSize then m.setByte c.1 c.2 else m) []

/-- The state a launch begins in: "no fault is recorded and no event is pending" (R251). -/
def Launch.start (l : Launch) : State :=
  { regs := l.rfInit, pc := l.pcInit, mem := loadImage l.params.memSize l.memInit, event := none, params := l.params }

end Sys2Proof.Machine
end

