-- ==== Sys2Proof/Machine/Block.lean ====
section
/-! DEFINITION. The block on its own: the read-port selector (48_read_port_selector.md R200 to R203, R211) and one block
step (00_scope.md R17, 10_state.md R32, R205): a word and the write-port inputs in, IDEC's outputs, the port data and
the next register file out. -/

namespace Sys2Proof.Machine

/-- The two read ports (R212). -/
structure Ports where
  aEn : Bool
  aIdx : RegIdx
  aData : XWord
  bEn : Bool
  bIdx : RegIdx
  bData : XWord
deriving DecidableEq, Repr

/-- RPS (R200 to R202, R212): a port is enabled by its valid bit, and a disabled port selects index 0. It never reads
the R4 fields (R201). -/
def rps (d : Decoded) (X : RegFile) : Ports :=
  let aIdx := if d.rs1Valid then d.rs1 else 0
  let bIdx := if d.rs2Valid then d.rs2 else 0
  { aEn := d.rs1Valid, aIdx := aIdx, aData := rfRead X aIdx, bEn := d.rs2Valid, bIdx := bIdx, bData := rfRead X bIdx }

/-- The inputs of one block step (R32): the word, and the write port's `we`, `wa`, `wd`, which the block does not check
(R206). -/
structure BlockInput where
  word : Word
  we : Bool
  wa : RegIdx
  wd : XWord
deriving DecidableEq, Repr

/-- The outputs of one block step. -/
structure BlockOutput where
  decoded : Decoded
  ports : Ports
  regs : RegFile
deriving DecidableEq, Repr

/-- What a port delivers (R205): the start-of-step value, or, with `RF_BYPASS`, the value that is being written to the
same index, other than 0, in this step. -/
def portData (rfBypass : Bool) (inp : BlockInput) (idx : RegIdx) (old : XWord) : XWord :=
  if rfBypass = true ∧ inp.we = true ∧ inp.wa ≠ 0 ∧ idx = inp.wa then inp.wd else old

/-- One step of the block (R17): decode, read the ports, commit at most one write at the end (R205, R207). -/
def blockStep (p : Params) (X : RegFile) (inp : BlockInput) : BlockOutput :=
  let d := idec p.hasR4 inp.word
  let ports := rps d X
  { decoded := d,
    ports := { ports with aData := portData p.rfBypass inp ports.aIdx ports.aData,
                          bData := portData p.rfBypass inp ports.bIdx ports.bData },
    regs := rfWrite X inp.we inp.wa inp.wd }

/-- The block step over a state's registers and parameters; nothing else of the state is the block's (R32). -/
def State.blockStep (s : State) (inp : BlockInput) : State × Decoded × Ports :=
  let out := Machine.blockStep s.params s.regs inp
  ({ s with regs := out.regs }, out.decoded, out.ports)

end Sys2Proof.Machine
end

