-- ==== Sys2Proof/Safety.lean ====
section
/-! DEFINITION. What the statements about the machine are said in: the invariant of a state, what a completed
instruction leaves, and how a run ends (70_reset_and_hazards.md R252). -/

namespace Sys2Proof.Machine

/-- The byte of a state's memory at an address. -/
def State.byteAt (s : State) (a : Nat) : Byte := s.mem.byteAt a

/-- `w[lo+len-1 : lo]` as a number (00_scope.md R12). -/
def win (w : Word) (lo len : Nat) : Nat := w.toNat / 2 ^ lo % 2 ^ len

/-- The signed value of an `n`-bit pattern `v` (00_scope.md R15). -/
def sgn (n v : Nat) : Int := if v < 2 ^ (n - 1) then (v : Int) else (v : Int) - 2 ^ n

/-- The invariant: memory in its canonical form, and no byte listed outside `[0, MEM_SIZE)` (R40, R44). -/
abbrev State.Inv (s : State) : Prop := s.mem.wf ∧ s.mem.within s.params.memSize

/-- `t` is `s` with `v` in register `rd`, x0 excepted (R22), and the pc at `pc'`: every other register, every byte of
memory, the event and the parameters are as in `s`. -/
def Wrote (s t : State) (rd : RegIdx) (v : XWord) (pc' : Addr) : Prop :=
  t.pc = pc' ∧ (∀ r, t.x r = if r = 0 then 0 else if r = rd then v else s.x r) ∧
  (∀ a, t.byteAt a = s.byteAt a) ∧ t.event = s.event ∧ t.params = s.params

/-- `t` is `s` with the pc at `pc'`: every register, every byte, the event and the parameters are as in `s`. -/
def OnlyMoved (s t : State) (pc' : Addr) : Prop :=
  t.pc = pc' ∧ (∀ r, t.x r = s.x r) ∧ (∀ a, t.byteAt a = s.byteAt a) ∧ t.event = s.event ∧ t.params = s.params

/-- `t` is `s` with the `n` low bytes of `v` stored from `a` up, least significant first, and the pc at `pc'`: every
other byte, every register, the event and the parameters are as in `s`. -/
def Stored (s t : State) (a : Addr) (n : Nat) (v : XWord) (pc' : Addr) : Prop :=
  t.pc = pc' ∧ (∀ r, t.x r = s.x r) ∧
  (∀ k, k < n → (t.byteAt (a.toNat + k)).toNat = v.toNat / 2 ^ (8 * k) % 2 ^ 8) ∧
  (∀ b, b < a.toNat ∨ a.toNat + n ≤ b → t.byteAt b = s.byteAt b) ∧ t.event = s.event ∧ t.params = s.params

/-- An instruction completes with a value `v` in `rd` that `P` describes, and the pc advanced by 4. -/
def Computes (i : Instr) (s : State) (rd : RegIdx) (P : XWord → Prop) : Prop :=
  ∃ t v, exec i s = .next t ∧ Wrote s t rd v (s.pc + 4) ∧ P v

/-- An instruction completes, changes nothing but the pc, and moves that by `off` modulo 2^64 (R250). -/
def MovesBy (i : Instr) (s : State) (off : Int) : Prop :=
  ∃ t, exec i s = .next t ∧ OnlyMoved s t t.pc ∧ (t.pc.toNat : Int) = (s.pc.toNat + off) % 2 ^ 64

/-- The instructions of a list executed one after another, each in the state the one before leaves. -/
def execSeq : List Instr → State → Host.Outcome State Fault Refusal
  | [], s => .next s
  | i :: is, s =>
    match exec i s with
    | .next t => execSeq is t
    | .fault f => .fault f
    | .refused r => .refused r

/-- A list of instructions completes with a value `v` in `rd` that `P` describes, and the pc advanced by `n`. -/
def SeqComputes (is : List Instr) (s : State) (rd : RegIdx) (n : Addr) (P : XWord → Prop) : Prop :=
  ∃ t v, execSeq is s = .next t ∧ Wrote s t rd v (s.pc + n) ∧ P v

/-- A list of instructions completes, changes nothing but the pc, and moves that by `off` modulo 2^64. -/
def SeqMovesBy (is : List Instr) (s : State) (off : Int) : Prop :=
  ∃ t, execSeq is s = .next t ∧ OnlyMoved s t t.pc ∧ (t.pc.toNat : Int) = (s.pc.toNat + off) % 2 ^ 64

/-- A list of instructions completes with a value `v` in `rd` that `P` describes, and the pc at the address `target`. -/
def SeqJumps (is : List Instr) (s : State) (rd : RegIdx) (P : XWord → Prop) (target : Int) : Prop :=
  ∃ t v, execSeq is s = .next t ∧ Wrote s t rd v t.pc ∧ P v ∧ (t.pc.toNat : Int) = target

/-- The access of `n` bytes at `a` is admitted (R44): aligned, and inside memory without wrap-around. -/
def Admitted (s : State) (a : Addr) (n : Nat) : Prop := a.toNat % n = 0 ∧ a.toNat + n ≤ s.params.memSize

/-- The little-endian value of `n` bytes of a state's memory (R42). -/
def State.bytesValue (s : State) (a : Nat) : Nat → Nat
  | 0 => 0
  | n + 1 => s.bytesValue a n + (s.byteAt (a + n)).toNat * 2 ^ (8 * n)

/-- The data access an instruction makes, if it is a load or a store: its kind, address and width (R135, R160; "An
instruction makes at most one memory data access", R224). -/
def dataAccess (s : State) : Instr → Option (AccessKind × Addr × Nat)
  | .lb _ rs1 imm | .lbu _ rs1 imm => some (.read, effAddr s rs1 imm, 1)
  | .lh _ rs1 imm | .lhu _ rs1 imm => some (.read, effAddr s rs1 imm, 2)
  | .lw _ rs1 imm | .lwu _ rs1 imm => some (.read, effAddr s rs1 imm, 4)
  | .ld _ rs1 imm => some (.read, effAddr s rs1 imm, 8)
  | .sb rs1 _ imm => some (.write, effAddr s rs1 imm, 1)
  | .sh rs1 _ imm => some (.write, effAddr s rs1 imm, 2)
  | .sw rs1 _ imm => some (.write, effAddr s rs1 imm, 4)
  | .sd rs1 _ imm => some (.write, effAddr s rs1 imm, 8)
  | .add .. | .sub .. | .sll .. | .slt .. | .sltu .. | .xor .. | .srl .. | .sra .. | .or .. | .and .. => none
  | .addw .. | .subw .. | .sllw .. | .srlw .. | .sraw .. => none
  | .addi .. | .slti .. | .sltiu .. | .xori .. | .ori .. | .andi .. => none
  | .slli .. | .srli .. | .srai .. | .addiw .. | .slliw .. | .srliw .. | .sraiw .. => none
  | .jalr .. | .fence .. | .ecall | .ebreak => none
  | .beq .. | .bne .. | .blt .. | .bge .. | .bltu .. | .bgeu .. => none
  | .lui .. | .auipc .. | .jal .. => none
  | .r4Madd .. | .r4Msub .. | .r4Nmsub .. | .r4Nmadd .. => none

/-- Two steps, from `s` and from `t`, do the same: the same fault or refusal, or the same pc, memory and event, with
every register either written with one value in both or left as it was in both. -/
def SameEffect (s t : State) : Host.Outcome State Fault Refusal → Host.Outcome State Fault Refusal → Prop
  | .next s', .next t' =>
    s'.pc = t'.pc ∧ s'.mem = t'.mem ∧ s'.event = t'.event ∧
    ∀ r, s'.x r = t'.x r ∨ (s'.x r = s.x r ∧ t'.x r = t.x r)
  | .fault f, .fault g => f = g
  | .refused q, .refused r => q = r
  | .next _, .fault _ | .next _, .refused _ | .fault _, .next _ | .fault _, .refused _ | .refused _, .next _
  | .refused _, .fault _ => False

/-- How a run under fuel comes out: the four outcomes of R252, or the fuel is used up, which "proves nothing". -/
inductive RunResult
  | ended (e : Event) (s : State)
  | faulted (f : Fault) (s : State)
  | refused (r : Refusal) (s : State)
  | outOfFuel (s : State)
deriving DecidableEq, Repr

/-- A run of at most `fuel` steps, with the state it ends in (R252): an event ends it successfully, a fault ends it in
the state before the faulting step. -/
def run : Nat → State → RunResult
  | 0, s => .outOfFuel s
  | fuel + 1, s =>
    match step s with
    | .next t =>
      match t.event with
      | some e => .ended e t
      | none => run fuel t
    | .fault f => .faulted f s
    | .refused r => .refused r s

/-- "counts as a successful end" (R252). -/
def RunResult.successful : RunResult → Bool
  | .ended .. => true
  | .faulted .. | .refused .. | .outOfFuel .. => false

end Sys2Proof.Machine
end

