-- ==== Sys2Proof/Certificates/Slice0/Obligations.lean ====
section
/-! DEFINITION. The statements for the provers. "log <n>" is notes/assumptions/<n>.md; I<n> stands in
93_implementation_defined.md. What an instruction computes is its "Downstream (informative)" line, which R250 makes
the composed machine's execution (log 7), so the statements about results are derived ones. -/

open Sys2Proof Sys2Proof.Machine

/-! ### IDEC -/

/-- Words written out in the spec's examples decode to the instructions they stand for (95_test_vectors.md section 2). -/
def Obligations.SpecExampleWordsDecode : Prop :=
  decode false 0x00C58533 = some (.add 10 11 12) ∧ decode false 0x405002BB = some (.subw 5 0 5) ∧
  decode false 0xFFF00513 = some (.addi 10 0 0xFFF) ∧ decode false 0x0202D293 = some (.srli 5 5 32) ∧
  decode false 0x41F5D51B = some (.sraiw 10 11 31) ∧ decode false 0x80042283 = some (.lw 5 8 0x800) ∧
  decode false 0xFFC300E7 = some (.jalr 1 6 0xFFC) ∧ decode false 0x8330000F = some (.fence 8 3 3 0 0) ∧
  decode false 0x00100073 = some .ebreak ∧ decode false 0xFEA10FA3 = some (.sb 2 10 0xFFF) ∧
  decode false 0x0124E0E3 = some (.bltu 9 18 2048) ∧ decode false 0x12345537 = some (.lui 10 0x12345) ∧
  decode false 0x7FFFF0EF = some (.jal 1 0xFFFFE) ∧ decode true 0x203170C3 = some (.r4Madd 1 2 3 4 0 7) ∧
  decode false 0x203170C3 = none ∧ decode false 0x02A50533 = none ∧ decode false 0x0200101B = none ∧
  decode false 0x00000573 = none ∧ decode false 0x0000100F = none ∧ decode false 0x12345678 = none

/-- Decoding the word of a well-formed instruction gives the instruction back, every operand at every value. -/
def Obligations.DecodeOfEncodeIsTheInstruction : Prop :=
  ∀ (hasR4 : Bool) (i : Instr), i.wf hasR4 = true → decode hasR4 (encode i) = some i

/-- A word that decodes to an instruction is that instruction's encoding, and the instruction is well-formed: no bit of
a supported word is lost. -/
def Obligations.EncodeOfDecodeIsTheWord : Prop :=
  ∀ (hasR4 : Bool) (w : Word) (i : Instr), decode hasR4 w = some i → encode i = w ∧ i.wf hasR4 = true

/-- R80: "No two rows match the same word", also not a row of R4 and another. -/
def Obligations.NoTwoRowsMatchOneWord : Prop :=
  ∀ (w : Word) (r q : Row), r ∈ table → q ∈ table → w &&& r.mask = r.value → w &&& q.mask = q.value → r = q

/-- R80, R81: the instruction output is the mnemonic of the counting row that matches, none exactly when no such row
does, and then the word is unsupported; every output but these two is driven all the same. -/
def Obligations.UnsupportedExactlyWhenNoRowMatches : Prop :=
  ∀ (hasR4 : Bool) (w : Word),
    (∀ r ∈ table, (r.fmt = .R4 → hasR4 = true) → w &&& r.mask = r.value →
      (idec hasR4 w).instr = some r.mnemonic ∧ (idec hasR4 w).unsupported = false) ∧
    ((idec hasR4 w).unsupported = true ↔
      ∀ r ∈ table, (r.fmt = .R4 → hasR4 = true) → w &&& r.mask ≠ r.value) ∧
    ((idec hasR4 w).unsupported = true ↔ (idec hasR4 w).instr = none)

/-- R61, and the sub-fields of R74 and R83: the raw fields are the word's windows, for every word and whatever its
opcode. -/
def Obligations.RawFieldsAreTheWordsWindows : Prop :=
  ∀ (hasR4 : Bool) (w : Word),
    (idec hasR4 w).opcode.toNat = win w 0 7 ∧ (idec hasR4 w).rd.toNat = win w 7 5 ∧
    (idec hasR4 w).funct3.toNat = win w 12 3 ∧ (idec hasR4 w).rs1.toNat = win w 15 5 ∧
    (idec hasR4 w).rs2.toNat = win w 20 5 ∧ (idec hasR4 w).funct7.toNat = win w 25 7 ∧
    (idec hasR4 w).rs3.toNat = win w 27 5 ∧ (idec hasR4 w).funct2.toNat = win w 25 2 ∧
    (idec hasR4 w).immU32.toNat = win w 12 20 * 2 ^ 12 ∧
    (idec hasR4 w).shamt.toNat = win w 20 6 ∧ (idec hasR4 w).shamt5.toNat = win w 20 5 ∧
    (idec hasR4 w).funct6.toNat = win w 26 6 ∧ (idec hasR4 w).funct12.toNat = win w 20 12 ∧
    (idec hasR4 w).fenceFm.toNat = win w 28 4 ∧ (idec hasR4 w).fencePred.toNat = win w 24 4 ∧
    (idec hasR4 w).fenceSucc.toNat = win w 20 4

/-- R62 to R65 and R67: the fields and the immediate's signed value of the R, I, S, B and J views, for every word. -/
def Obligations.FormatViewsAreTheFieldSets : Prop :=
  ∀ w : Word,
    ((viewR w).opcode.toNat = win w 0 7 ∧ (viewR w).rd.toNat = win w 7 5 ∧ (viewR w).funct3.toNat = win w 12 3 ∧
      (viewR w).rs1.toNat = win w 15 5 ∧ (viewR w).rs2.toNat = win w 20 5 ∧ (viewR w).funct7.toNat = win w 25 7) ∧
    ((viewI w).opcode.toNat = win w 0 7 ∧ (viewI w).rd.toNat = win w 7 5 ∧ (viewI w).funct3.toNat = win w 12 3 ∧
      (viewI w).rs1.toNat = win w 15 5 ∧ (viewI w).imm.toInt = sgn 12 (win w 20 12)) ∧
    ((viewS w).opcode.toNat = win w 0 7 ∧ (viewS w).funct3.toNat = win w 12 3 ∧ (viewS w).rs1.toNat = win w 15 5 ∧
      (viewS w).rs2.toNat = win w 20 5 ∧ (viewS w).imm.toInt = sgn 12 (win w 25 7 * 2 ^ 5 + win w 7 5)) ∧
    ((viewB w).opcode.toNat = win w 0 7 ∧ (viewB w).funct3.toNat = win w 12 3 ∧ (viewB w).rs1.toNat = win w 15 5 ∧
      (viewB w).rs2.toNat = win w 20 5 ∧
      (viewB w).imm.toInt =
        sgn 13 (win w 31 1 * 2 ^ 12 + win w 7 1 * 2 ^ 11 + win w 25 6 * 2 ^ 5 + win w 8 4 * 2)) ∧
    ((viewJ w).opcode.toNat = win w 0 7 ∧ (viewJ w).rd.toNat = win w 7 5 ∧
      (viewJ w).imm.toInt =
        sgn 21 (win w 31 1 * 2 ^ 20 + win w 12 8 * 2 ^ 12 + win w 20 1 * 2 ^ 11 + win w 21 10 * 2))

/-- R66 and R68: the U view with both widths of its immediate (the 64-bit one is the spec's decision D4), and the R4
view, whose fields R68 places by inference and from general knowledge. -/
def Obligations.UpperAndR4ViewsAreTheFieldSets : Prop :=
  ∀ w : Word,
    ((viewU w).opcode.toNat = win w 0 7 ∧ (viewU w).rd.toNat = win w 7 5 ∧
      (viewU w).immU32.toNat = win w 12 20 * 2 ^ 12 ∧ (viewU w).imm.toInt = sgn 32 (win w 12 20 * 2 ^ 12)) ∧
    ((viewR4 w).opcode.toNat = win w 0 7 ∧ (viewR4 w).fd.toNat = win w 7 5 ∧ (viewR4 w).funct3.toNat = win w 12 3 ∧
      (viewR4 w).fs1.toNat = win w 15 5 ∧ (viewR4 w).fs2.toNat = win w 20 5 ∧
      (viewR4 w).funct2.toNat = win w 25 2 ∧ (viewR4 w).fs3.toNat = win w 27 5)

/-- R69: the range and granularity of each immediate. -/
def Obligations.ImmediateRangesAndGranularity : Prop :=
  ∀ w : Word,
    (-2048 ≤ (viewI w).imm.toInt ∧ (viewI w).imm.toInt ≤ 2047) ∧
    (-2048 ≤ (viewS w).imm.toInt ∧ (viewS w).imm.toInt ≤ 2047) ∧
    (-4096 ≤ (viewB w).imm.toInt ∧ (viewB w).imm.toInt ≤ 4094 ∧ (viewB w).imm.toInt % 2 = 0) ∧
    (-2 ^ 31 ≤ (viewU w).imm.toInt ∧ (viewU w).imm.toInt ≤ 2 ^ 31 - 4096 ∧ (viewU w).immU32.toNat % 4096 = 0) ∧
    (-1048576 ≤ (viewJ w).imm.toInt ∧ (viewJ w).imm.toInt ≤ 1048574 ∧ (viewJ w).imm.toInt % 2 = 0)

/-- R70: in every format with an immediate, the immediate is negative exactly when bit 31 of the word is set. -/
def Obligations.ImmediateSignIsBit31 : Prop :=
  ∀ w : Word,
    ((viewI w).imm.toInt < 0 ↔ w.getLsbD 31 = true) ∧ ((viewS w).imm.toInt < 0 ↔ w.getLsbD 31 = true) ∧
    ((viewB w).imm.toInt < 0 ↔ w.getLsbD 31 = true) ∧ ((viewU w).imm.toInt < 0 ↔ w.getLsbD 31 = true) ∧
    ((viewJ w).imm.toInt < 0 ↔ w.getLsbD 31 = true)

/-- R72 and R73: the opcode map; the format is a function of the opcode alone. -/
def Obligations.FormatOfFollowsTheOpcodeMap : Prop :=
  ∀ (hasR4 : Bool) (w : Word),
    ((idec hasR4 w).fmt = .R ↔ win w 0 7 ∈ [0x33, 0x3B]) ∧
    ((idec hasR4 w).fmt = .I ↔ win w 0 7 ∈ [0x03, 0x0F, 0x13, 0x1B, 0x67, 0x73]) ∧
    ((idec hasR4 w).fmt = .S ↔ win w 0 7 = 0x23) ∧ ((idec hasR4 w).fmt = .B ↔ win w 0 7 = 0x63) ∧
    ((idec hasR4 w).fmt = .U ↔ win w 0 7 ∈ [0x17, 0x37]) ∧ ((idec hasR4 w).fmt = .J ↔ win w 0 7 = 0x6F) ∧
    ((idec hasR4 w).fmt = .R4 ↔ hasR4 = true ∧ win w 0 7 ∈ [0x43, 0x47, 0x4B, 0x4F])

/-- R75, R78 and R79: which fields the selected format defines, and the immediate output. -/
def Obligations.SelectedBundleFollowsTheFormat : Prop :=
  ∀ (hasR4 : Bool) (w : Word),
    ((idec hasR4 w).rdValid = true ↔ (idec hasR4 w).fmt ∈ [.R, .I, .U, .J]) ∧
    ((idec hasR4 w).rs1Valid = true ↔ (idec hasR4 w).fmt ∈ [.R, .I, .S, .B]) ∧
    ((idec hasR4 w).rs2Valid = true ↔ (idec hasR4 w).fmt ∈ [.R, .S, .B]) ∧
    ((idec hasR4 w).funct3Valid = true ↔ (idec hasR4 w).fmt ∈ [.R, .I, .S, .B, .R4]) ∧
    ((idec hasR4 w).funct7Valid = true ↔ (idec hasR4 w).fmt = .R) ∧
    ((idec hasR4 w).immValid = true ↔ (idec hasR4 w).fmt ∈ [.I, .S, .B, .U, .J]) ∧
    ((idec hasR4 w).r4Valid = true ↔ (idec hasR4 w).fmt = .R4) ∧
    ((idec hasR4 w).fmt = .I → (idec hasR4 w).imm = (viewI w).imm) ∧
    ((idec hasR4 w).fmt = .S → (idec hasR4 w).imm = (viewS w).imm) ∧
    ((idec hasR4 w).fmt = .B → (idec hasR4 w).imm = (viewB w).imm) ∧
    ((idec hasR4 w).fmt = .U → (idec hasR4 w).imm = (viewU w).imm) ∧
    ((idec hasR4 w).fmt = .J → (idec hasR4 w).imm = (viewJ w).imm) ∧
    ((idec hasR4 w).immValid = false → (idec hasR4 w).imm = 0)

/-- R82: "A word with `fmt = NONE` always has `unsupported = 1`"; and R80: a supported word's format is its row's. -/
def Obligations.SupportedWordsHaveTheirRowsFormat : Prop :=
  ∀ (hasR4 : Bool) (w : Word),
    ((idec hasR4 w).fmt = .NONE → (idec hasR4 w).unsupported = true) ∧
    (∀ r ∈ table, (idec hasR4 w).instr = some r.mnemonic → (idec hasR4 w).fmt = r.fmt)

/-- R92: the opcode is `w & 0x7F`; the register fields are the exact windows; a raw field does not change with the bits
outside its window; and a word assembled from six fields gives them back through the R view. -/
def Obligations.RawFieldsAreIndependentAndRoundTrip : Prop :=
  (∀ (hasR4 : Bool) (w : Word), (idec hasR4 w).opcode.setWidth 32 = w &&& 0x7F ∧
    (idec hasR4 w).rd.toNat = win w 7 5 ∧ (idec hasR4 w).rs1.toNat = win w 15 5 ∧
    (idec hasR4 w).rs2.toNat = win w 20 5) ∧
  (∀ (hasR4 : Bool) (w v : Word),
    (w &&& 0x0000007F = v &&& 0x0000007F → (idec hasR4 w).opcode = (idec hasR4 v).opcode) ∧
    (w &&& 0x00000F80 = v &&& 0x00000F80 → (idec hasR4 w).rd = (idec hasR4 v).rd) ∧
    (w &&& 0x00007000 = v &&& 0x00007000 → (idec hasR4 w).funct3 = (idec hasR4 v).funct3) ∧
    (w &&& 0x000F8000 = v &&& 0x000F8000 → (idec hasR4 w).rs1 = (idec hasR4 v).rs1) ∧
    (w &&& 0x01F00000 = v &&& 0x01F00000 →
      (idec hasR4 w).rs2 = (idec hasR4 v).rs2 ∧ (idec hasR4 w).shamt5 = (idec hasR4 v).shamt5) ∧
    (w &&& 0xFE000000 = v &&& 0xFE000000 → (idec hasR4 w).funct7 = (idec hasR4 v).funct7) ∧
    (w &&& 0x03F00000 = v &&& 0x03F00000 → (idec hasR4 w).shamt = (idec hasR4 v).shamt) ∧
    (w &&& 0xFC000000 = v &&& 0xFC000000 → (idec hasR4 w).funct6 = (idec hasR4 v).funct6) ∧
    (w &&& 0xFFF00000 = v &&& 0xFFF00000 → (idec hasR4 w).funct12 = (idec hasR4 v).funct12) ∧
    (w &&& 0xF0000000 = v &&& 0xF0000000 → (idec hasR4 w).fenceFm = (idec hasR4 v).fenceFm) ∧
    (w &&& 0x0F000000 = v &&& 0x0F000000 → (idec hasR4 w).fencePred = (idec hasR4 v).fencePred) ∧
    (w &&& 0x00F00000 = v &&& 0x00F00000 → (idec hasR4 w).fenceSucc = (idec hasR4 v).fenceSucc)) ∧
  (∀ (op : BitVec 7) (rd rs1 rs2 : RegIdx) (f3 : BitVec 3) (f7 : BitVec 7),
    viewR (encodeR f7 rs2 rs1 f3 rd op) =
      { opcode := op, rd := rd, funct3 := f3, rs1 := rs1, rs2 := rs2, funct7 := f7 })

/-- R190: what IDEC and RPS do with the four R4 opcodes under `HAS_R4`, each identified as its class, and 47_r4_type.md's
opening: without it they are NONE and unsupported. -/
def Obligations.R4OpcodesNeedHasR4 : Prop :=
  ∀ (w : Word) (X : RegFile), win w 0 7 ∈ [0x43, 0x47, 0x4B, 0x4F] →
    ((idec true w).fmt = .R4 ∧ (idec true w).unsupported = false ∧
      (idec true w).rdValid = false ∧ (idec true w).rs1Valid = false ∧ (idec true w).rs2Valid = false ∧
      (idec true w).funct7Valid = false ∧ (idec true w).immValid = false ∧ (idec true w).funct3Valid = true ∧
      (idec true w).r4Valid = true ∧ (idec true w).imm = 0 ∧
      (idec true w).rd.toNat = win w 7 5 ∧ (idec true w).rs1.toNat = win w 15 5 ∧
      (idec true w).rs2.toNat = win w 20 5 ∧ (idec true w).rs3.toNat = win w 27 5 ∧
      (idec true w).funct2.toNat = win w 25 2 ∧ (idec true w).funct3.toNat = win w 12 3 ∧
      (win w 0 7 = 0x43 → (idec true w).instr = some .r4Madd) ∧
      (win w 0 7 = 0x47 → (idec true w).instr = some .r4Msub) ∧
      (win w 0 7 = 0x4B → (idec true w).instr = some .r4Nmsub) ∧
      (win w 0 7 = 0x4F → (idec true w).instr = some .r4Nmadd) ∧
      rps (idec true w) X =
        { aEn := false, aIdx := 0, aData := 0, bEn := false, bIdx := 0, bData := 0 }) ∧
    (idec false w).fmt = .NONE ∧ (idec false w).unsupported = true

/-! ### The read-port selector and the register file -/

/-- R202 and R204, with R200's formulas: a port is enabled by its valid bit, selects the raw field or, disabled, index
0, and delivers that register, x0 as 0. -/
def Obligations.PortsDeliverTheSelectedRegisters : Prop :=
  ∀ (hasR4 : Bool) (w : Word) (X : RegFile),
    (rps (idec hasR4 w) X).aEn = (idec hasR4 w).rs1Valid ∧ (rps (idec hasR4 w) X).bEn = (idec hasR4 w).rs2Valid ∧
    (rps (idec hasR4 w) X).aIdx.toNat = (if (rps (idec hasR4 w) X).aEn then win w 15 5 else 0) ∧
    (rps (idec hasR4 w) X).bIdx.toNat = (if (rps (idec hasR4 w) X).bEn then win w 20 5 else 0) ∧
    (∀ k : Fin 32, (rps (idec hasR4 w) X).aIdx.toNat = k.val →
      (rps (idec hasR4 w) X).aData = if k.val = 0 then 0 else X[k]) ∧
    (∀ k : Fin 32, (rps (idec hasR4 w) X).bIdx.toNat = k.val →
      (rps (idec hasR4 w) X).bData = if k.val = 0 then 0 else X[k])

/-- R200's table and R201: which ports a format enables, also for an unsupported word; a disabled port delivers 0. -/
def Obligations.PortEnablesFollowTheFormat : Prop :=
  ∀ (hasR4 : Bool) (w : Word) (X : RegFile),
    ((rps (idec hasR4 w) X).aEn = true ↔ (idec hasR4 w).fmt ∈ [.R, .I, .S, .B]) ∧
    ((rps (idec hasR4 w) X).bEn = true ↔ (idec hasR4 w).fmt ∈ [.R, .S, .B]) ∧
    ((rps (idec hasR4 w) X).aEn = false → (rps (idec hasR4 w) X).aIdx = 0 ∧ (rps (idec hasR4 w) X).aData = 0) ∧
    ((rps (idec hasR4 w) X).bEn = false → (rps (idec hasR4 w) X).bIdx = 0 ∧ (rps (idec hasR4 w) X).bData = 0)

/-- R204 and R205: a block step commits at most the write the port carries, x0's is discarded, and a port sees the
old value unless `RF_BYPASS` lets it see this step's write. -/
def Obligations.BlockStepCommitsTheWritePort : Prop :=
  ∀ (p : Params) (X : RegFile) (inp : BlockInput),
    (blockStep p X inp).decoded = idec p.hasR4 inp.word ∧
    (∀ k : Fin 32, (blockStep p X inp).regs[k] =
      if inp.we = true ∧ inp.wa ≠ 0 ∧ inp.wa.toNat = k.val then inp.wd else X[k]) ∧
    (∀ i : RegIdx, i ≠ 0 → rfRead X i = X[i.toNat]'i.isLt) ∧ rfRead X 0 = 0 ∧
    (blockStep p X inp).ports.aData =
      (if p.rfBypass = true ∧ inp.we = true ∧ inp.wa ≠ 0 ∧ (blockStep p X inp).ports.aIdx = inp.wa then inp.wd
        else rfRead X (blockStep p X inp).ports.aIdx) ∧
    (blockStep p X inp).ports.bData =
      (if p.rfBypass = true ∧ inp.we = true ∧ inp.wa ≠ 0 ∧ (blockStep p X inp).ports.bIdx = inp.wa then inp.wd
        else rfRead X (blockStep p X inp).ports.bIdx)

/-- R208: a written register reads as written in every later step until it is written again, index 0 reads 0 after any
writes, and a write leaves every other index alone. -/
def Obligations.RegisterReadsItsLastWrite : Prop :=
  ∀ (p : Params) (X : RegFile) (inp : BlockInput) (later : List BlockInput),
    inp.we = true →
    (∀ k : RegIdx, k ≠ 0 → inp.wa = k → (∀ j ∈ later, ¬ (j.we = true ∧ j.wa = k)) →
      rfRead (later.foldl (fun Y j => (blockStep p Y j).regs) (blockStep p X inp).regs) k = inp.wd) ∧
    (inp.wa = 0 → rfRead (later.foldl (fun Y j => (blockStep p Y j).regs) (blockStep p X inp).regs) 0 = 0) ∧
    (∀ k : RegIdx, k ≠ inp.wa → rfRead (blockStep p X inp).regs k = rfRead X k)

/-- R22: x0 reads 0 in every state, a write to it changes nothing, and every other register reads what was written to
it. -/
def Obligations.RegisterZeroIsHardwired : Prop :=
  (∀ s : State, s.x 0 = 0) ∧ (∀ (s : State) (v : XWord), s.writeReg 0 v = s) ∧
  (∀ (s : State) (r : RegIdx) (v : XWord), r ≠ 0 → (s.writeReg r v).x r = v)

/-- The reading of R22 that the model takes (log 16): no step updates the cell behind x0. -/
def Obligations.CellBehindX0IsNeverUpdated : Prop := ∀ s t : State, step s = .next t → t.regs[0] = s.regs[0]

/-- R23: the 32 names map 1:1 to the indices, with the two the source fixes, index 0 `zero` and index 8 `s0`. -/
def Obligations.RegisterNamesAreOneToOne : Prop :=
  (∀ i : RegIdx, (RegName.ofIdx i).idx = i) ∧ (∀ n : RegName, RegName.ofIdx n.idx = n) ∧
  RegName.ofIdx 0 = .zero ∧ RegName.ofIdx 8 = .s0

/-! ### Memory -/

/-- R42 and R48: an admitted read gives the little-endian sum of its bytes, below 2^(8n). -/
def Obligations.MemReadIsLittleEndian : Prop :=
  ∀ (s : State) (kind : AccessKind) (a : Addr) (w : Width),
    (Admitted s a w.bytes →
      ∃ v, memRead s kind a w = .ok v ∧ v.toNat = s.bytesValue a.toNat w.bytes ∧ v.toNat < 2 ^ (8 * w.bytes)) ∧
    (¬ Admitted s a w.bytes → memRead s kind a w = .error (.accessFault kind a w.bytes))

/-- R43 and R45: an admitted write stores the value's low bytes, least significant lowest, and leaves every other byte,
every register, the pc, the event and the parameters; memory stays in its canonical form. -/
def Obligations.MemWriteChangesExactlyItsBytes : Prop :=
  ∀ (s : State) (a : Addr) (w : Width) (v : XWord), s.mem.wf → Admitted s a w.bytes →
    ∃ t, memWrite s a w v = .ok t ∧ Stored s t a w.bytes v s.pc ∧ t.mem.wf

/-- R44 and R46: an access is refused exactly when it is misaligned or out of range, computed without wrap-around, and
the only way it is refused is an AccessFault with its kind, address and width. -/
def Obligations.AccessFaultsExactlyWhenNotAdmitted : Prop :=
  ∀ (s : State) (kind : AccessKind) (a : Addr) (w : Width) (v : XWord) (f : Fault),
    (memRead s kind a w = .error f ↔
      ¬ (a.toNat % w.bytes = 0 ∧ a.toNat + w.bytes ≤ s.params.memSize) ∧ f = .accessFault kind a w.bytes) ∧
    (memWrite s a w v = .error f ↔
      ¬ (a.toNat % w.bytes = 0 ∧ a.toNat + w.bytes ≤ s.params.memSize) ∧ f = .accessFault .write a w.bytes)

/-- R45 and R54: after a write, a read of any width that lies inside the written bytes gives that part of the value, and
one that lies outside them gives what it gave before. -/
def Obligations.ReadReturnsTheNewestBytes : Prop :=
  ∀ (s t : State) (a b : Addr) (w u : Width) (v : XWord) (kind : AccessKind),
    s.mem.wf → memWrite s a w v = .ok t →
    (a.toNat ≤ b.toNat → b.toNat + u.bytes ≤ a.toNat + w.bytes → b.toNat % u.bytes = 0 →
      ∃ r, memRead t kind b u = .ok r ∧
        r.toNat = v.toNat / 2 ^ (8 * (b.toNat - a.toNat)) % 2 ^ (8 * u.bytes)) ∧
    (b.toNat + u.bytes ≤ a.toNat ∨ a.toNat + w.bytes ≤ b.toNat → memRead t kind b u = memRead s kind b u)

/-! ### The step -/

/-- R250, steps 1 to 3: when the run goes on and the four bytes at the pc are a word that decodes to an instruction, a
step is exactly that instruction's `exec`. -/
def Obligations.StepRunsTheDecodedInstruction : Prop :=
  ∀ (s : State) (w : Word) (i : Instr), s.event = none → Admitted s s.pc 4 → w.toNat = s.bytesValue s.pc.toNat 4 →
    decode s.params.hasR4 w = some i → step s = exec i s

/-- R224: a fetch fault comes first, then Unsupported, then the data access of an identified load or store. -/
def Obligations.StepConditionsInPriorityOrder : Prop :=
  ∀ s : State, s.event = none →
    (¬ Admitted s s.pc 4 → step s = .fault (.accessFault .fetch s.pc 4)) ∧
    (∀ w : Word, Admitted s s.pc 4 → w.toNat = s.bytesValue s.pc.toNat 4 →
      ((idec s.params.hasR4 w).unsupported = true → step s = .fault (.unsupported w)) ∧
      (∀ i kind a n, decode s.params.hasR4 w = some i → dataAccess s i = some (kind, a, n) → ¬ Admitted s a n →
        step s = .fault (.accessFault kind a n)))

/-- R222: there are no other conditions. A step of a run that goes on is never refused, and a fault is a fetch fault, an
unsupported word (an R4 class among them, I11), or the data access's own fault. -/
def Obligations.StepStopsOnlyForTheNamedConditions : Prop :=
  ∀ s : State, s.event = none →
    (∀ r, step s ≠ .refused r) ∧
    (∀ f, step s = .fault f →
      (¬ Admitted s s.pc 4 ∧ f = .accessFault .fetch s.pc 4) ∨
      ∃ w : Word, Admitted s s.pc 4 ∧ w.toNat = s.bytesValue s.pc.toNat 4 ∧
        (((idec s.params.hasR4 w).unsupported = true ∨ (idec s.params.hasR4 w).fmt = .R4) ∧ f = .unsupported w ∨
          ∃ i kind a n, decode s.params.hasR4 w = some i ∧ dataAccess s i = some (kind, a, n) ∧ ¬ Admitted s a n ∧
            f = .accessFault kind a n))

/-- The model's choice (log 8), where R252 says nothing: a step of a run that has ended is refused by name. -/
def Obligations.EndedRunTakesNoFurtherStep : Prop :=
  ∀ (s : State) (e : Event), s.event = some e → step s = .refused (.runEnded e)

/-- Every completed step keeps memory in its canonical form and inside `[0, MEM_SIZE)` (R40, R44). -/
def Obligations.StepKeepsTheInvariant : Prop := ∀ s t : State, s.Inv → step s = .next t → t.Inv

/-- The state after reset meets the invariant. -/
def Obligations.ResetMeetsTheInvariant : Prop := State.reset.Inv

/-- R251: no step changes the parameters of the launch. -/
def Obligations.NoStepChangesTheParameters : Prop := ∀ s t : State, step s = .next t → t.params = s.params

/-- R143, R170, R185 and R250: after every completed step the pc is even, whatever it was before the fetch. -/
def Obligations.PcIsEvenAfterEveryStep : Prop := ∀ s t : State, step s = .next t → t.pc.toNat % 2 = 0

/-- R77, R206, R207 and R250: a step that completes changes no register but the one that IDEC names as `rd` with
`rd_valid`, in a supported word, and never x0; so at most one register changes. -/
def Obligations.OnlyTheDecodedDestinationChanges : Prop :=
  ∀ (s t : State) (r : RegIdx), step s = .next t → t.x r ≠ s.x r →
    ∃ w : Word, fetchWord s = .ok w ∧ (idec s.params.hasR4 w).unsupported = false ∧
      (idec s.params.hasR4 w).rdValid = true ∧ r = (idec s.params.hasR4 w).rd ∧ r ≠ 0

/-- R46, R250: a byte changes in a completed step only if the fetched instruction is a store and the byte is one of
those it stores to. -/
def Obligations.OnlyStoresChangeMemory : Prop :=
  ∀ (s t : State) (b : Nat), s.mem.wf → step s = .next t → t.byteAt b ≠ s.byteAt b →
    ∃ (w : Word) (i : Instr) (a : Addr) (n : Nat), fetchWord s = .ok w ∧ decode s.params.hasR4 w = some i ∧
      dataAccess s i = some (.write, a, n) ∧ Admitted s a n ∧ a.toNat ≤ b ∧ b < a.toNat + n

/-- R25: "Reads go only through RPS's ports A and B". Two states that agree on everything but the registers, and whose
ports deliver the same for the fetched word, take the same step. -/
def Obligations.StepReadsRegistersOnlyThroughThePorts : Prop :=
  ∀ (s t : State) (w : Word), s.event = t.event → s.pc = t.pc → s.mem = t.mem → s.params = t.params →
    fetchWord s = .ok w → rps (idec s.params.hasR4 w) s.regs = rps (idec s.params.hasR4 w) t.regs →
    SameEffect s t (step s) (step t)

/-- R57 and R248: a fetch sees the word that an earlier SW stored, with no fence between. -/
def Obligations.FetchSeesTheStoredWord : Prop :=
  ∀ (s t : State) (rs1 rs2 : RegIdx) (imm : BitVec 12), s.mem.wf → exec (.sw rs1 rs2 imm) s = .next t →
    ∃ w : Word, fetchWord (t.setPc (effAddr s rs1 imm)) = .ok w ∧ w.toNat = (s.x rs2).toNat % 2 ^ 32

/-- R251: the state a launch begins in. -/
def Obligations.LaunchStateIsTheLaunchTuple : Prop :=
  ∀ l : Launch,
    l.start.event = none ∧ l.start.pc = l.pcInit ∧ l.start.regs = l.rfInit ∧ l.start.params = l.params ∧
    ((l.memInit.map Prod.fst).Nodup → ∀ c ∈ l.memInit, c.1 < l.params.memSize → l.start.byteAt c.1 = c.2)

/-- R33, R241 and R11: what the spec gives of the state after reset: x0 reads 0, no event is pending, and `HAS_R4` and
`RF_BYPASS` have R11's values. -/
def Obligations.ResetHasTheSpecsValues : Prop :=
  State.reset.x 0 = 0 ∧ State.reset.event = none ∧ State.reset.params.hasR4 = false ∧
  State.reset.params.rfBypass = false

/-- R252: how a run comes out. It is never refused. Where it ends with an event, the ending step is that of an ECALL or
EBREAK word, and the end state is the state before that step with the event recorded (log 8); where it ends with a
fault, the end state is the state whose step faults. -/
def Obligations.RunEndsAsTheEndTableSays : Prop :=
  ∀ (fuel : Nat) (s : State), s.event = none →
    (∀ r t, run fuel s ≠ .refused r t) ∧
    (∀ e t, run fuel s = .ended e t → ∃ u, u.event = none ∧ step u = .next t ∧ t = { u with event := some e } ∧
      fetchWord u = .ok (match e with | .ecall => (0x00000073 : Word) | .ebreak => 0x00100073)) ∧
    (∀ f t, run fuel s = .faulted f t → t.event = none ∧ step t = .fault f)

/-- R252 and R185: "A loop such as `jal x0, 0` (`0x0000006F`) never ends". -/
def Obligations.SelfJumpNeverEnds : Prop :=
  ∀ (fuel : Nat) (s : State), s.event = none → fetchWord s = .ok 0x0000006F → run fuel s = .outOfFuel s

/-! ### What the instructions do -/

/-- OP: ADD, SUB, SLL, SLT, SLTU, XOR, SRL, SRA, OR, AND complete in every state, with these values in `rd` and nothing
else changed but the pc (41_r_type.md; a write to x0 is discarded, R22). -/
def Obligations.OpResults : Prop :=
  ∀ (s : State) (rd rs1 rs2 : RegIdx),
    Computes (.add rd rs1 rs2) s rd (fun v => v.toNat = ((s.x rs1).toNat + (s.x rs2).toNat) % 2 ^ 64) ∧
    Computes (.sub rd rs1 rs2) s rd
      (fun v => (v.toNat : Int) = ((s.x rs1).toNat - (s.x rs2).toNat : Int) % 2 ^ 64) ∧
    Computes (.sll rd rs1 rs2) s rd
      (fun v => v.toNat = (s.x rs1).toNat * 2 ^ ((s.x rs2).toNat % 64) % 2 ^ 64) ∧
    Computes (.slt rd rs1 rs2) s rd (fun v => v.toNat = if (s.x rs1).toInt < (s.x rs2).toInt then 1 else 0) ∧
    Computes (.sltu rd rs1 rs2) s rd (fun v => v.toNat = if (s.x rs1).toNat < (s.x rs2).toNat then 1 else 0) ∧
    Computes (.xor rd rs1 rs2) s rd
      (fun v => ∀ k, v.getLsbD k = ((s.x rs1).getLsbD k ^^ (s.x rs2).getLsbD k)) ∧
    Computes (.srl rd rs1 rs2) s rd (fun v => v.toNat = (s.x rs1).toNat / 2 ^ ((s.x rs2).toNat % 64)) ∧
    Computes (.sra rd rs1 rs2) s rd (fun v => v.toInt = (s.x rs1).toInt / 2 ^ ((s.x rs2).toNat % 64)) ∧
    Computes (.or rd rs1 rs2) s rd
      (fun v => ∀ k, v.getLsbD k = ((s.x rs1).getLsbD k || (s.x rs2).getLsbD k)) ∧
    Computes (.and rd rs1 rs2) s rd
      (fun v => ∀ k, v.getLsbD k = ((s.x rs1).getLsbD k && (s.x rs2).getLsbD k))

/-- OP-32: ADDW, SUBW, SLLW, SRLW, SRAW complete in every state; the result is 32 bits, read as signed (41_r_type.md). -/
def Obligations.Op32Results : Prop :=
  ∀ (s : State) (rd rs1 rs2 : RegIdx),
    Computes (.addw rd rs1 rs2) s rd
      (fun v => v.toInt = Int.bmod ((s.x rs1).toNat + (s.x rs2).toNat : Int) (2 ^ 32)) ∧
    Computes (.subw rd rs1 rs2) s rd
      (fun v => v.toInt = Int.bmod ((s.x rs1).toNat - (s.x rs2).toNat : Int) (2 ^ 32)) ∧
    Computes (.sllw rd rs1 rs2) s rd
      (fun v => v.toInt = Int.bmod ((s.x rs1).toNat * 2 ^ ((s.x rs2).toNat % 32) : Int) (2 ^ 32)) ∧
    Computes (.srlw rd rs1 rs2) s rd
      (fun v => v.toInt =
        Int.bmod (((s.x rs1).toNat % 2 ^ 32 / 2 ^ ((s.x rs2).toNat % 32) : Nat) : Int) (2 ^ 32)) ∧
    Computes (.sraw rd rs1 rs2) s rd
      (fun v => v.toInt = Int.bmod ((s.x rs1).toNat : Int) (2 ^ 32) / 2 ^ ((s.x rs2).toNat % 32))

/-- OP-IMM: ADDI, SLTI, SLTIU, XORI, ORI, ANDI complete in every state; the immediate is sign-extended, for SLTIU too
(42_i_type.md). -/
def Obligations.OpImmResults : Prop :=
  ∀ (s : State) (rd rs1 : RegIdx) (imm : BitVec 12),
    Computes (.addi rd rs1 imm) s rd (fun v => (v.toNat : Int) = ((s.x rs1).toNat + imm.toInt) % 2 ^ 64) ∧
    Computes (.slti rd rs1 imm) s rd (fun v => v.toNat = if (s.x rs1).toInt < imm.toInt then 1 else 0) ∧
    Computes (.sltiu rd rs1 imm) s rd
      (fun v => v.toNat = if ((s.x rs1).toNat : Int) < imm.toInt % 2 ^ 64 then 1 else 0) ∧
    Computes (.xori rd rs1 imm) s rd
      (fun v => ∀ k, k < 64 → v.getLsbD k = ((s.x rs1).getLsbD k ^^ imm.getLsbD (min k 11))) ∧
    Computes (.ori rd rs1 imm) s rd
      (fun v => ∀ k, k < 64 → v.getLsbD k = ((s.x rs1).getLsbD k || imm.getLsbD (min k 11))) ∧
    Computes (.andi rd rs1 imm) s rd
      (fun v => ∀ k, k < 64 → v.getLsbD k = ((s.x rs1).getLsbD k && imm.getLsbD (min k 11)))

/-- SLLI, SRLI, SRAI complete in every state, with every amount from 0 to 63 (42_i_type.md). -/
def Obligations.ShiftImmediateResults : Prop :=
  ∀ (s : State) (rd rs1 : RegIdx) (shamt : BitVec 6),
    Computes (.slli rd rs1 shamt) s rd (fun v => v.toNat = (s.x rs1).toNat * 2 ^ shamt.toNat % 2 ^ 64) ∧
    Computes (.srli rd rs1 shamt) s rd (fun v => v.toNat = (s.x rs1).toNat / 2 ^ shamt.toNat) ∧
    Computes (.srai rd rs1 shamt) s rd (fun v => v.toInt = (s.x rs1).toInt / 2 ^ shamt.toNat)

/-- OP-IMM-32: ADDIW, SLLIW, SRLIW, SRAIW complete in every state (42_i_type.md). -/
def Obligations.OpImm32Results : Prop :=
  ∀ (s : State) (rd rs1 : RegIdx),
    (∀ imm : BitVec 12, Computes (.addiw rd rs1 imm) s rd
      (fun v => v.toInt = Int.bmod ((s.x rs1).toNat + imm.toInt) (2 ^ 32))) ∧
    (∀ sh : BitVec 5,
      Computes (.slliw rd rs1 sh) s rd
        (fun v => v.toInt = Int.bmod ((s.x rs1).toNat * 2 ^ sh.toNat : Int) (2 ^ 32)) ∧
      Computes (.srliw rd rs1 sh) s rd
        (fun v => v.toInt = Int.bmod (((s.x rs1).toNat % 2 ^ 32 / 2 ^ sh.toNat : Nat) : Int) (2 ^ 32)) ∧
      Computes (.sraiw rd rs1 sh) s rd
        (fun v => v.toInt = Int.bmod ((s.x rs1).toNat : Int) (2 ^ 32) / 2 ^ sh.toNat))

/-- LB, LH, LW, LD, LBU, LHU, LWU complete when their access is admitted, with the value of the bytes at `x[rs1] + imm`
modulo 2^64, signed or unsigned, in `rd`, and all of memory unchanged (42_i_type.md). -/
def Obligations.LoadResults : Prop :=
  ∀ (s : State) (rd rs1 : RegIdx) (imm : BitVec 12) (a : Addr),
    (a.toNat : Int) = ((s.x rs1).toNat + imm.toInt) % 2 ^ 64 →
    (Admitted s a 1 →
      Computes (.lb rd rs1 imm) s rd (fun v => v.toInt = sgn 8 (s.bytesValue a.toNat 1)) ∧
      Computes (.lbu rd rs1 imm) s rd (fun v => v.toNat = s.bytesValue a.toNat 1)) ∧
    (Admitted s a 2 →
      Computes (.lh rd rs1 imm) s rd (fun v => v.toInt = sgn 16 (s.bytesValue a.toNat 2)) ∧
      Computes (.lhu rd rs1 imm) s rd (fun v => v.toNat = s.bytesValue a.toNat 2)) ∧
    (Admitted s a 4 →
      Computes (.lw rd rs1 imm) s rd (fun v => v.toInt = sgn 32 (s.bytesValue a.toNat 4)) ∧
      Computes (.lwu rd rs1 imm) s rd (fun v => v.toNat = s.bytesValue a.toNat 4)) ∧
    (Admitted s a 8 → Computes (.ld rd rs1 imm) s rd (fun v => v.toNat = s.bytesValue a.toNat 8))

/-- SB, SH, SW, SD complete when their access is admitted: the low bytes of `x[rs2]` at `x[rs1] + imm`, every other
byte and every register as before (43_s_type.md). -/
def Obligations.StoreResults : Prop :=
  ∀ (s : State) (rs1 rs2 : RegIdx) (imm : BitVec 12), s.mem.wf →
    (Admitted s (effAddr s rs1 imm) 1 → ∃ t, exec (.sb rs1 rs2 imm) s = .next t ∧
      Stored s t (effAddr s rs1 imm) 1 (s.x rs2) (s.pc + 4)) ∧
    (Admitted s (effAddr s rs1 imm) 2 → ∃ t, exec (.sh rs1 rs2 imm) s = .next t ∧
      Stored s t (effAddr s rs1 imm) 2 (s.x rs2) (s.pc + 4)) ∧
    (Admitted s (effAddr s rs1 imm) 4 → ∃ t, exec (.sw rs1 rs2 imm) s = .next t ∧
      Stored s t (effAddr s rs1 imm) 4 (s.x rs2) (s.pc + 4)) ∧
    (Admitted s (effAddr s rs1 imm) 8 → ∃ t, exec (.sd rs1 rs2 imm) s = .next t ∧
      Stored s t (effAddr s rs1 imm) 8 (s.x rs2) (s.pc + 4))

/-- A load or store whose access is not admitted faults with its kind, address and width (R46, R221); the address is
`x[rs1] + imm` modulo 2^64. -/
def Obligations.LoadsAndStoresFaultWhenNotAdmitted : Prop :=
  ∀ (s : State) (rd rs1 rs2 : RegIdx) (imm : BitVec 12) (a : Addr),
    (a.toNat : Int) = ((s.x rs1).toNat + imm.toInt) % 2 ^ 64 →
    (¬ Admitted s a 1 → exec (.lb rd rs1 imm) s = .fault (.accessFault .read a 1) ∧
      exec (.lbu rd rs1 imm) s = .fault (.accessFault .read a 1) ∧
      exec (.sb rs1 rs2 imm) s = .fault (.accessFault .write a 1)) ∧
    (¬ Admitted s a 2 → exec (.lh rd rs1 imm) s = .fault (.accessFault .read a 2) ∧
      exec (.lhu rd rs1 imm) s = .fault (.accessFault .read a 2) ∧
      exec (.sh rs1 rs2 imm) s = .fault (.accessFault .write a 2)) ∧
    (¬ Admitted s a 4 → exec (.lw rd rs1 imm) s = .fault (.accessFault .read a 4) ∧
      exec (.lwu rd rs1 imm) s = .fault (.accessFault .read a 4) ∧
      exec (.sw rs1 rs2 imm) s = .fault (.accessFault .write a 4)) ∧
    (¬ Admitted s a 8 → exec (.ld rd rs1 imm) s = .fault (.accessFault .read a 8) ∧
      exec (.sd rs1 rs2 imm) s = .fault (.accessFault .write a 8))

/-- BEQ, BNE, BLT, BGE, BLTU, BGEU complete in every state and change the pc alone: by the offset when the comparison
holds, by 4 otherwise (44_b_type.md). -/
def Obligations.BranchResults : Prop :=
  ∀ (s : State) (rs1 rs2 : RegIdx) (imm : BitVec 13),
    MovesBy (.beq rs1 rs2 imm) s (if s.x rs1 = s.x rs2 then imm.toInt else 4) ∧
    MovesBy (.bne rs1 rs2 imm) s (if s.x rs1 ≠ s.x rs2 then imm.toInt else 4) ∧
    MovesBy (.blt rs1 rs2 imm) s (if (s.x rs1).toInt < (s.x rs2).toInt then imm.toInt else 4) ∧
    MovesBy (.bge rs1 rs2 imm) s (if (s.x rs1).toInt ≥ (s.x rs2).toInt then imm.toInt else 4) ∧
    MovesBy (.bltu rs1 rs2 imm) s (if (s.x rs1).toNat < (s.x rs2).toNat then imm.toInt else 4) ∧
    MovesBy (.bgeu rs1 rs2 imm) s (if (s.x rs1).toNat ≥ (s.x rs2).toNat then imm.toInt else 4)

/-- JAL and JALR complete in every state: `pc + 4` in `rd` and the target in the pc; JALR reads `rs1` before the link is
written and clears bit 0 of the target (42_i_type.md, 46_j_type.md). -/
def Obligations.JumpResults : Prop :=
  ∀ (s : State) (rd rs1 : RegIdx),
    (∀ imm : BitVec 21, ∃ t, exec (.jal rd imm) s = .next t ∧ Wrote s t rd (s.pc + 4) t.pc ∧
      (t.pc.toNat : Int) = (s.pc.toNat + imm.toInt) % 2 ^ 64) ∧
    (∀ imm : BitVec 12, ∃ t, exec (.jalr rd rs1 imm) s = .next t ∧ Wrote s t rd (s.pc + 4) t.pc ∧
      (t.pc.toNat : Int) = ((s.x rs1).toNat + imm.toInt) % 2 ^ 64 / 2 * 2)

/-- LUI and AUIPC complete in every state (45_u_type.md): the upper immediate as a signed 32-bit value, alone or added
to the pc. -/
def Obligations.UpperImmediateResults : Prop :=
  ∀ (s : State) (rd : RegIdx) (imm20 : BitVec 20),
    Computes (.lui rd imm20) s rd (fun v => v.toInt = sgn 32 (imm20.toNat * 2 ^ 12)) ∧
    Computes (.auipc rd imm20) s rd
      (fun v => (v.toNat : Int) = (s.pc.toNat + sgn 32 (imm20.toNat * 2 ^ 12)) % 2 ^ 64)

/-- FENCE completes in every state and, whatever its fields hold, only moves on to the next instruction (R55, R144). -/
def Obligations.FenceOnlyAdvances : Prop :=
  ∀ (s : State) (fm pred succ : BitVec 4) (rs1 rd : RegIdx), MovesBy (.fence fm pred succ rs1 rd) s 4

/-- ECALL and EBREAK complete in every state: the run ends with their event, and every register, every byte, the pc and
the parameters are as before (R227, R252). -/
def Obligations.EcallAndEbreakEndTheRun : Prop :=
  ∀ s : State,
    (∃ t, exec .ecall s = .next t ∧ t.event = some .ecall ∧ t.pc = s.pc ∧ (∀ r, t.x r = s.x r) ∧
      (∀ a, t.byteAt a = s.byteAt a) ∧ t.params = s.params) ∧
    (∃ t, exec .ebreak s = .next t ∧ t.event = some .ebreak ∧ t.pc = s.pc ∧ (∀ r, t.x r = s.x r) ∧
      (∀ a, t.byteAt a = s.byteAt a) ∧ t.params = s.params)

/-- I11: executing an R4 class ends the run with `Fault.unsupported w`, `w` the instruction's own word, on every path. -/
def Obligations.R4ClassesEndWithUnsupported : Prop :=
  ∀ (s : State) (fd fs1 fs2 fs3 : BitVec 5) (funct2 : BitVec 2) (funct3 : BitVec 3),
    exec (.r4Madd fd fs1 fs2 fs3 funct2 funct3) s =
      .fault (.unsupported (encodeR4 fs3 funct2 fs2 fs1 funct3 fd 0x43)) ∧
    exec (.r4Msub fd fs1 fs2 fs3 funct2 funct3) s =
      .fault (.unsupported (encodeR4 fs3 funct2 fs2 fs1 funct3 fd 0x47)) ∧
    exec (.r4Nmsub fd fs1 fs2 fs3 funct2 funct3) s =
      .fault (.unsupported (encodeR4 fs3 funct2 fs2 fs1 funct3 fd 0x4B)) ∧
    exec (.r4Nmadd fd fs1 fs2 fs3 funct2 funct3) s =
      .fault (.unsupported (encodeR4 fs3 funct2 fs2 fs1 funct3 fd 0x4F))

/-- R90: the two instructions of `li rd, imm` leave the sign-extended 32-bit value in `rd` (nothing in x0), every other
register and all of memory as before, and the pc two instructions on. -/
def Obligations.LoadImmediateExpansionLoadsTheValue : Prop :=
  ∀ (s : State) (rd : RegIdx) (imm : BitVec 32),
    ∃ i j t u, (Pseudo.liWide rd imm).expand = [i, j] ∧ exec i s = .next t ∧ exec j t = .next u ∧
      Wrote s u rd (imm.signExtend 64) (s.pc + 8)

/-- R90: what the expansion of each pseudo-instruction does, but for those of a symbol: the value it leaves in its `rd`,
or when and whither it moves the pc, and that nothing else changes; the words R90 gives for `nop`, `ret` and `fence`;
and that IDEC identifies every instruction of every expansion whose offset is even. -/
def Obligations.PseudoExpansionsDoWhatTheTableSays : Prop :=
  ∀ (s : State) (off : BitVec 13) (joff : BitVec 21) (rd rs rt : RegIdx) (imm : BitVec 12) (wide : BitVec 32),
    SeqMovesBy Pseudo.nop.expand s 4 ∧ Pseudo.nop.expand.map encode = [0x00000013] ∧
    SeqComputes (Pseudo.liSmall rd imm).expand s rd 4 (fun v => v.toInt = imm.toInt) ∧
    SeqComputes (Pseudo.liWide rd wide).expand s rd 8 (fun v => v.toInt = wide.toInt) ∧
    SeqComputes (Pseudo.mv rd rs).expand s rd 4 (fun v => v = s.x rs) ∧
    SeqComputes (Pseudo.not rd rs).expand s rd 4 (fun v => ∀ k, k < 64 → v.getLsbD k = !(s.x rs).getLsbD k) ∧
    SeqComputes (Pseudo.neg rd rs).expand s rd 4 (fun v => (v.toNat : Int) = (-(s.x rs).toNat : Int) % 2 ^ 64) ∧
    SeqComputes (Pseudo.negw rd rs).expand s rd 4
      (fun v => v.toInt = Int.bmod (-(s.x rs).toNat : Int) (2 ^ 32)) ∧
    SeqComputes (Pseudo.sextw rd rs).expand s rd 4 (fun v => v.toInt = Int.bmod ((s.x rs).toNat : Int) (2 ^ 32)) ∧
    SeqComputes (Pseudo.seqz rd rs).expand s rd 4 (fun v => v.toNat = if s.x rs = 0 then 1 else 0) ∧
    SeqComputes (Pseudo.snez rd rs).expand s rd 4 (fun v => v.toNat = if s.x rs ≠ 0 then 1 else 0) ∧
    SeqComputes (Pseudo.sltz rd rs).expand s rd 4 (fun v => v.toNat = if (s.x rs).toInt < 0 then 1 else 0) ∧
    SeqComputes (Pseudo.sgtz rd rs).expand s rd 4 (fun v => v.toNat = if (s.x rs).toInt > 0 then 1 else 0) ∧
    SeqMovesBy (Pseudo.beqz rs off).expand s (if s.x rs = 0 then off.toInt else 4) ∧
    SeqMovesBy (Pseudo.bnez rs off).expand s (if s.x rs ≠ 0 then off.toInt else 4) ∧
    SeqMovesBy (Pseudo.blez rs off).expand s (if (s.x rs).toInt ≤ 0 then off.toInt else 4) ∧
    SeqMovesBy (Pseudo.bgez rs off).expand s (if (s.x rs).toInt ≥ 0 then off.toInt else 4) ∧
    SeqMovesBy (Pseudo.bltz rs off).expand s (if (s.x rs).toInt < 0 then off.toInt else 4) ∧
    SeqMovesBy (Pseudo.bgtz rs off).expand s (if (s.x rs).toInt > 0 then off.toInt else 4) ∧
    SeqMovesBy (Pseudo.bgt rs rt off).expand s (if (s.x rs).toInt > (s.x rt).toInt then off.toInt else 4) ∧
    SeqMovesBy (Pseudo.ble rs rt off).expand s (if (s.x rs).toInt ≤ (s.x rt).toInt then off.toInt else 4) ∧
    SeqMovesBy (Pseudo.bgtu rs rt off).expand s (if (s.x rs).toNat > (s.x rt).toNat then off.toInt else 4) ∧
    SeqMovesBy (Pseudo.bleu rs rt off).expand s (if (s.x rs).toNat ≤ (s.x rt).toNat then off.toInt else 4) ∧
    SeqMovesBy (Pseudo.j joff).expand s joff.toInt ∧
    SeqJumps (Pseudo.jalLink joff).expand s 1 (fun v => v = s.pc + 4) ((s.pc.toNat + joff.toInt) % 2 ^ 64) ∧
    SeqJumps (Pseudo.jr rs).expand s 0 (fun _ => True) ((s.x rs).toNat / 2 * 2) ∧
    SeqJumps (Pseudo.jalrLink rs).expand s 1 (fun v => v = s.pc + 4) ((s.x rs).toNat / 2 * 2) ∧
    SeqJumps Pseudo.ret.expand s 0 (fun _ => True) ((s.x 1).toNat / 2 * 2) ∧
    Pseudo.ret.expand.map encode = [0x00008067] ∧
    SeqMovesBy Pseudo.fence.expand s 4 ∧ Pseudo.fence.expand.map encode = [0x0FF0000F] ∧
    (off.getLsbD 0 = false → joff.getLsbD 0 = false →
      ∀ p ∈ [Pseudo.nop, .liSmall rd imm, .liWide rd wide, .mv rd rs, .not rd rs, .neg rd rs, .negw rd rs,
          .sextw rd rs, .seqz rd rs, .snez rd rs, .sltz rd rs, .sgtz rd rs, .beqz rs off, .bnez rs off, .blez rs off,
          .bgez rs off, .bltz rs off, .bgtz rs off, .bgt rs rt off, .ble rs rt off, .bgtu rs rt off, .bleu rs rt off,
          .j joff, .jalLink joff, .jr rs, .jalrLink rs, .ret, .call wide, .tail wide, .la rd wide, .fence],
        ∀ i ∈ p.expand, i.wf false = true)

/-- R90 with log 15 (the model's reading of a symbol as its offset from the expansion's pc): `call` links in ra and
reaches the symbol, `tail` reaches it through t1, which keeps the upper part of its address, and `la` loads its address;
nothing else changes. An offset from 2^31 - 2^11 up is reached as 2^32 less, because `hi20` then is 0x80000, which
AUIPC sign-extends. JALR clears bit 0 of the two targets. -/
def Obligations.PseudoSymbolExpansionsReachTheSymbol : Prop :=
  ∀ (s : State) (rd : RegIdx) (off : BitVec 32) (d : Int),
    d = (if off.toInt < 2 ^ 31 - 2 ^ 11 then off.toInt else off.toInt - 2 ^ 32) →
    SeqJumps (Pseudo.call off).expand s 1 (fun v => v = s.pc + 8) ((s.pc.toNat + d) % 2 ^ 64 / 2 * 2) ∧
    SeqJumps (Pseudo.tail off).expand s 6
      (fun v => (v.toNat : Int) = (s.pc.toNat + d - Int.bmod off.toInt (2 ^ 12)) % 2 ^ 64)
      ((s.pc.toNat + d) % 2 ^ 64 / 2 * 2) ∧
    SeqComputes (Pseudo.la rd off).expand s rd 8 (fun v => (v.toNat : Int) = (s.pc.toNat + d) % 2 ^ 64)
end

