-- ==== Sys2Proof/Laws/Decode.lean ====
section
/-! SUPPORT. What the identification masks leave of an encoded word (30_encoding.md R80), one lemma per format. -/

namespace Sys2Proof

/-- The mask `0xFE00707F` keeps funct7, funct3 and the opcode of an R-format word. -/
theorem encodeR_mask (f7 : BitVec 7) (rs2 rs1 : RegIdx) (f3 : BitVec 3) (rd : RegIdx) (op : BitVec 7) :
    encodeR f7 rs2 rs1 f3 rd op &&& 0xFE00707F = encodeR f7 0 0 f3 0 op := by
  have hm : (0xFE00707F : Word) = encodeR (BitVec.allOnes 7) 0 0 (BitVec.allOnes 3) 0 (BitVec.allOnes 7) := by decide
  rw [hm]
  unfold encodeR
  show @HAnd.hAnd (BitVec (7 + 5 + 5 + 3 + 5 + 7)) (BitVec (7 + 5 + 5 + 3 + 5 + 7)) _ _ _ _ = _
  simp only [BitVec.and_append, BitVec.and_allOnes, BitVec.ofNat_eq_ofNat, BitVec.and_zero]

/-- The mask `0x0000707F` keeps funct3 and the opcode of an I-format word. -/
theorem encodeI_mask (imm : BitVec 12) (rs1 : RegIdx) (f3 : BitVec 3) (rd : RegIdx) (op : BitVec 7) :
    encodeI imm rs1 f3 rd op &&& 0x0000707F = encodeI 0 0 f3 0 op := by
  have hm : (0x0000707F : Word) = encodeI 0 0 (BitVec.allOnes 3) 0 (BitVec.allOnes 7) := by decide
  rw [hm]
  unfold encodeI
  show @HAnd.hAnd (BitVec (12 + 5 + 3 + 5 + 7)) (BitVec (12 + 5 + 3 + 5 + 7)) _ _ _ _ = _
  simp only [BitVec.and_append, BitVec.and_allOnes, BitVec.ofNat_eq_ofNat, BitVec.and_zero]

/-- The mask `0xFC00707F` keeps funct6, funct3 and the opcode of a 64-bit shift-immediate word. -/
theorem encodeI_shift_mask (f6 : BitVec 6) (shamt : BitVec 6) (rs1 : RegIdx) (f3 : BitVec 3) (rd : RegIdx)
    (op : BitVec 7) :
    encodeI (f6 ++ shamt) rs1 f3 rd op &&& 0xFC00707F = encodeI (f6 ++ (0 : BitVec 6)) 0 f3 0 op := by
  have hm : (0xFC00707F : Word) =
      encodeI (BitVec.allOnes 6 ++ (0 : BitVec 6)) 0 (BitVec.allOnes 3) 0 (BitVec.allOnes 7) := by decide
  rw [hm]
  unfold encodeI
  show @HAnd.hAnd (BitVec (6 + 6 + 5 + 3 + 5 + 7)) (BitVec (6 + 6 + 5 + 3 + 5 + 7)) _ _ _ _ = _
  simp only [BitVec.and_append, BitVec.and_allOnes, BitVec.ofNat_eq_ofNat, BitVec.and_zero]

/-- The mask `0xFE00707F` keeps funct7, funct3 and the opcode of a 32-bit shift-immediate word. -/
theorem encodeI_shift5_mask (f7 : BitVec 7) (shamt5 : BitVec 5) (rs1 : RegIdx) (f3 : BitVec 3) (rd : RegIdx)
    (op : BitVec 7) :
    encodeI (f7 ++ shamt5) rs1 f3 rd op &&& 0xFE00707F = encodeI (f7 ++ (0 : BitVec 5)) 0 f3 0 op := by
  have hm : (0xFE00707F : Word) =
      encodeI (BitVec.allOnes 7 ++ (0 : BitVec 5)) 0 (BitVec.allOnes 3) 0 (BitVec.allOnes 7) := by decide
  rw [hm]
  unfold encodeI
  show @HAnd.hAnd (BitVec (7 + 5 + 5 + 3 + 5 + 7)) (BitVec (7 + 5 + 5 + 3 + 5 + 7)) _ _ _ _ = _
  simp only [BitVec.and_append, BitVec.and_allOnes, BitVec.ofNat_eq_ofNat, BitVec.and_zero]

/-- The mask `0x0000707F` keeps funct3 and the opcode of an S-format word. -/
theorem encodeS_mask (imm : BitVec 12) (rs2 rs1 : RegIdx) (f3 : BitVec 3) :
    encodeS imm rs2 rs1 f3 &&& 0x0000707F = encodeS 0 0 0 f3 := by
  have hm : (0x0000707F : Word) = (0 : BitVec 7) ++ (0 : RegIdx) ++ (0 : RegIdx) ++ BitVec.allOnes 3 ++ (0 : BitVec 5) ++
      BitVec.allOnes 7 := by decide
  rw [hm]
  unfold encodeS
  show @HAnd.hAnd (BitVec (7 + 5 + 5 + 3 + 5 + 7)) (BitVec (7 + 5 + 5 + 3 + 5 + 7)) _ _ _ _ = _
  simp only [BitVec.and_append, BitVec.and_allOnes, BitVec.ofNat_eq_ofNat, BitVec.and_zero]
  rfl

/-- The mask `0x0000707F` keeps funct3 and the opcode of a B-format word. -/
theorem encodeB_mask (imm : BitVec 13) (rs2 rs1 : RegIdx) (f3 : BitVec 3) :
    encodeB imm rs2 rs1 f3 &&& 0x0000707F = encodeB 0 0 0 f3 := by
  have hm : (0x0000707F : Word) = (0 : BitVec 1) ++ (0 : BitVec 6) ++ (0 : RegIdx) ++ (0 : RegIdx) ++ BitVec.allOnes 3 ++
      (0 : BitVec 4) ++ (0 : BitVec 1) ++ BitVec.allOnes 7 := by decide
  rw [hm]
  unfold encodeB
  show @HAnd.hAnd (BitVec (1 + 6 + 5 + 5 + 3 + 4 + 1 + 7)) (BitVec (1 + 6 + 5 + 5 + 3 + 4 + 1 + 7)) _ _ _ _ = _
  simp only [BitVec.and_append, BitVec.and_allOnes, BitVec.ofNat_eq_ofNat, BitVec.and_zero]
  rfl

/-- The mask `0x0000007F` keeps the opcode of a U-format word. -/
theorem encodeU_mask (imm20 : BitVec 20) (rd : RegIdx) (op : BitVec 7) :
    encodeU imm20 rd op &&& 0x0000007F = encodeU 0 0 op := by
  have hm : (0x0000007F : Word) = encodeU 0 0 (BitVec.allOnes 7) := by decide
  rw [hm]
  unfold encodeU
  show @HAnd.hAnd (BitVec (20 + 5 + 7)) (BitVec (20 + 5 + 7)) _ _ _ _ = _
  simp only [BitVec.and_append, BitVec.and_allOnes, BitVec.ofNat_eq_ofNat, BitVec.and_zero]

/-- The mask `0x0000007F` keeps the opcode of the J-format word. -/
theorem encodeJ_mask (imm : BitVec 21) (rd : RegIdx) : encodeJ imm rd &&& 0x0000007F = encodeJ 0 0 := by
  have hm : (0x0000007F : Word) = (0 : BitVec 1) ++ (0 : BitVec 10) ++ (0 : BitVec 1) ++ (0 : BitVec 8) ++ (0 : RegIdx) ++
      BitVec.allOnes 7 := by decide
  rw [hm]
  unfold encodeJ
  show @HAnd.hAnd (BitVec (1 + 10 + 1 + 8 + 5 + 7)) (BitVec (1 + 10 + 1 + 8 + 5 + 7)) _ _ _ _ = _
  simp only [BitVec.and_append, BitVec.and_allOnes, BitVec.ofNat_eq_ofNat, BitVec.and_zero]
  rfl

/-- The mask `0x0000007F` keeps the opcode of an R4-format word. -/
theorem encodeR4_mask (fs3 : BitVec 5) (funct2 : BitVec 2) (fs2 fs1 : BitVec 5) (f3 : BitVec 3) (fd : BitVec 5)
    (op : BitVec 7) : encodeR4 fs3 funct2 fs2 fs1 f3 fd op &&& 0x0000007F = encodeR4 0 0 0 0 0 0 op := by
  have hm : (0x0000007F : Word) = encodeR4 0 0 0 0 0 0 (BitVec.allOnes 7) := by decide
  rw [hm]
  unfold encodeR4
  show @HAnd.hAnd (BitVec (5 + 2 + 5 + 5 + 3 + 5 + 7)) (BitVec (5 + 2 + 5 + 5 + 3 + 5 + 7)) _ _ _ _ = _
  simp only [BitVec.and_append, BitVec.and_allOnes, BitVec.ofNat_eq_ofNat, BitVec.and_zero]

/-- A row matches a word when its mask leaves the row's value of it (R80). -/
theorem matchesWord_iff (r : Row) (w : Word) : r.matchesWord w = true ↔ w &&& r.mask = r.value := by
  simp [Row.matchesWord]

/-- A word that a counting row matches is supported (R80, R81). -/
theorem identify_isSome {hasR4 : Bool} {w : Word} {r : Row} (hr : r ∈ table) (hc : r.counts hasR4 = true)
    (hm : r.matchesWord w = true) : (identify hasR4 w).isSome = true := by
  unfold identify
  rw [Option.isSome_map, List.find?_isSome]
  exact ⟨r, hr, by rw [hc, hm]; rfl⟩

/-- An identified mnemonic comes from a counting row that matches the word (R80). -/
theorem identify_row {hasR4 : Bool} {w : Word} {m : Mnemonic} (h : identify hasR4 w = some m) :
    ∃ r ∈ table, r.mnemonic = m ∧ r.counts hasR4 = true ∧ r.matchesWord w = true := by
  unfold identify at h
  obtain ⟨r, hr, rfl⟩ := Option.map_eq_some_iff.mp h
  have hp := List.find?_some hr
  rw [Bool.and_eq_true] at hp
  exact ⟨r, List.mem_of_find?_eq_some hr, rfl, hp.1, hp.2⟩

end Sys2Proof
end

