-- ==== Sys2Proof/Laws/Memory.lean ====
section
/-! SUPPORT. The laws of memory: a read after a write (20_memory.md R43, R45), and that every memory operation keeps
the canonical form and the bound of R40. -/

namespace Sys2Proof.Machine

/-- An address below every listed one reads as unlisted. -/
theorem byteAt_of_lt (m : Memory) (a : Nat) (h : ∀ c ∈ m, a < c.1) : m.byteAt a = Config.unlistedByte := by
  induction m with
  | nil => rfl
  | cons c m ih =>
    obtain ⟨k, v⟩ := c
    have hk : a < k := h (k, v) List.mem_cons_self
    rw [Memory.byteAt, if_neg (by omega)]
    exact ih fun c hc => h c (List.mem_cons_of_mem _ hc)

/-- Every entry of a changed memory is an old entry or the byte just written. -/
theorem mem_setByte (m : Memory) (a : Nat) (b : Byte) {c : Host.Cell} (hc : c ∈ m.setByte a b) :
    c ∈ m ∨ (c = (a, b) ∧ b ≠ Config.unlistedByte) := by
  induction m with
  | nil =>
    unfold Memory.setByte at hc
    split at hc
    · simp at hc
    · rename_i hb
      exact .inr ⟨by simpa using hc, hb⟩
  | cons d m ih =>
    obtain ⟨k, v⟩ := d
    unfold Memory.setByte at hc
    split at hc
    · split at hc
      · exact .inl hc
      · rename_i hb
        rcases List.mem_cons.mp hc with h | h
        · exact .inr ⟨h, hb⟩
        · exact .inl h
    · split at hc
      · split at hc
        · exact .inl (List.mem_cons_of_mem _ hc)
        · rename_i hb
          rcases List.mem_cons.mp hc with h | h
          · exact .inr ⟨h, hb⟩
          · exact .inl (List.mem_cons_of_mem _ h)
      · rcases List.mem_cons.mp hc with h | h
        · exact .inl (h ▸ List.mem_cons_self)
        · exact (ih h).imp (List.mem_cons_of_mem _) id

/-- Setting a byte keeps the canonical form. -/
theorem setByte_wf {m : Memory} (h : m.wf) (a : Nat) (b : Byte) : (m.setByte a b).wf := by
  refine ⟨?_, fun c hc => (mem_setByte m a b hc).elim (h.2 c) fun hcb => hcb.1 ▸ hcb.2⟩
  induction m with
  | nil =>
    unfold Memory.setByte
    split <;> simp
  | cons d m ih =>
    obtain ⟨k, v⟩ := d
    have hp := List.pairwise_cons.mp h.1
    have hm : Memory.wf m := ⟨hp.2, fun c hc => h.2 c (List.mem_cons_of_mem _ hc)⟩
    unfold Memory.setByte
    split
    · rename_i hak
      split
      · exact h.1
      · refine List.pairwise_cons.mpr ⟨fun c hc => ?_, h.1⟩
        rcases List.mem_cons.mp hc with rfl | hc
        · exact hak
        · exact Nat.lt_trans hak (hp.1 c hc)
    · split
      · rename_i hak
        split
        · exact hp.2
        · exact List.pairwise_cons.mpr ⟨fun c hc => hak ▸ hp.1 c hc, hp.2⟩
      · rename_i hlt hne
        refine List.pairwise_cons.mpr ⟨fun c hc => ?_, ih hm⟩
        rcases mem_setByte m a b hc with hc | ⟨rfl, -⟩
        · exact hp.1 c hc
        · exact (by omega : k < a)

/-- A read after a write: the written byte there, the old byte everywhere else (R43, R45). -/
theorem byteAt_setByte {m : Memory} (h : m.wf) (a c : Nat) (b : Byte) :
    (m.setByte a b).byteAt c = if c = a then b else m.byteAt c := by
  induction m with
  | nil =>
    by_cases hca : c = a
    · subst hca
      by_cases hb : b = Config.unlistedByte <;> simp [Memory.setByte, Memory.byteAt, hb]
    · by_cases hb : b = Config.unlistedByte <;> simp [Memory.setByte, Memory.byteAt, hb, hca, Ne.symm hca]
  | cons d m ih =>
    obtain ⟨k, v⟩ := d
    have hp := List.pairwise_cons.mp h.1
    have hm : Memory.wf m := ⟨hp.2, fun c hc => h.2 c (List.mem_cons_of_mem _ hc)⟩
    have hbelow : ∀ c ∈ (k, v) :: m, k ≤ c.1 := fun c hc => by
      rcases List.mem_cons.mp hc with rfl | hc
      · exact Nat.le_refl _
      · exact Nat.le_of_lt (hp.1 c hc)
    unfold Memory.setByte
    split
    · rename_i hak
      by_cases hca : c = a
      · subst hca
        by_cases hb : b = Config.unlistedByte
        · rw [if_pos hb, if_pos rfl, hb]
          exact byteAt_of_lt _ _ fun e he => Nat.lt_of_lt_of_le hak (hbelow e he)
        · rw [if_neg hb, if_pos rfl, Memory.byteAt, if_pos rfl]
      · rw [if_neg hca]
        split
        · rfl
        · rw [Memory.byteAt, if_neg (Ne.symm hca)]
    · split
      · rename_i hak
        subst hak
        by_cases hca : c = a
        · subst hca
          by_cases hb : b = Config.unlistedByte
          · rw [if_pos hb, if_pos rfl, hb]
            exact byteAt_of_lt _ _ hp.1
          · rw [if_neg hb, if_pos rfl, Memory.byteAt, if_pos rfl]
        · rw [if_neg hca, Memory.byteAt, if_neg (Ne.symm hca)]
          split
          · rfl
          · rw [Memory.byteAt, if_neg (Ne.symm hca)]
      · rename_i hlt hne
        simp only [Memory.byteAt]
        by_cases hkc : k = c
        · have : c ≠ a := by omega
          simp [hkc, this]
        · simp [hkc, ih hm]

/-- Setting a byte below the bound keeps the bound (R40). -/
theorem setByte_within {m : Memory} {n : Nat} (h : m.within n) {a : Nat} (ha : a < n) (b : Byte) :
    (m.setByte a b).within n := fun c hc =>
  (mem_setByte m a b hc).elim (h c) fun hcb => hcb.1 ▸ ha

/-- A store keeps the canonical form (R43). -/
theorem storeLE_wf {m : Memory} (h : m.wf) (a : Nat) (v : XWord) (n : Nat) : (m.storeLE a v n).wf := by
  induction n with
  | zero => exact h
  | succ n ih => exact setByte_wf ih _ _

/-- A store inside memory keeps the bound (R40, R44). -/
theorem storeLE_within {m : Memory} {N : Nat} (h : m.within N) (a : Nat) (v : XWord) (n : Nat) (hn : a + n ≤ N) :
    (m.storeLE a v n).within N := by
  induction n with
  | zero => exact h
  | succ n ih => exact setByte_within (ih (by omega)) (by omega) _

/-- Byte `a + k` of a store is byte `k` of its value; every other byte is the old one (R43). -/
theorem byteAt_storeLE {m : Memory} (h : m.wf) (a : Nat) (v : XWord) (n c : Nat) :
    (m.storeLE a v n).byteAt c =
      if a ≤ c ∧ c < a + n then v.extractLsb' (8 * (c - a)) 8 else m.byteAt c := by
  induction n with
  | zero => rw [if_neg (by omega)]; rfl
  | succ n ih =>
    rw [Memory.storeLE, byteAt_setByte (storeLE_wf h a v n)]
    by_cases hc : c = a + n
    · subst hc
      rw [if_pos rfl, if_pos (by omega), Nat.add_sub_cancel_left]
    · rw [if_neg hc, ih]
      by_cases hin : a ≤ c ∧ c < a + n
      · rw [if_pos hin, if_pos (by omega)]
      · rw [if_neg hin, if_neg (by omega)]

/-- Bytes from 8 * n up of a load of `n` bytes are zero (R48). -/
theorem loadLE_toNat_lt (m : Memory) (a n : Nat) (hn : n ≤ 8) : (m.loadLE a n).toNat < 2 ^ (8 * n) := by
  induction n with
  | zero => simp [Memory.loadLE]
  | succ n ih =>
    rw [Memory.loadLE, BitVec.toNat_or]
    refine Nat.or_lt_two_pow ?_ ?_
    · exact Nat.lt_of_lt_of_le (ih (by omega)) (Nat.pow_le_pow_right (by decide) (by omega))
    · rw [BitVec.toNat_shiftLeft, BitVec.toNat_setWidth]
      refine Nat.lt_of_le_of_lt (Nat.mod_le _ _) ?_
      rw [Nat.shiftLeft_eq, show 8 * (n + 1) = 8 + 8 * n by omega, Nat.pow_add]
      have hb := (m.byteAt (a + n)).isLt
      exact Nat.mul_lt_mul_of_lt_of_le (Nat.lt_of_le_of_lt (Nat.mod_le _ _) hb) (Nat.le_refl _) (by positivity)

/-- A load's value, one byte more (R42): the sum over the bytes, each with its weight. -/
theorem loadLE_toNat_succ (m : Memory) (a n : Nat) (hn : n < 8) :
    (m.loadLE a (n + 1)).toNat = (m.loadLE a n).toNat + (m.byteAt (a + n)).toNat * 2 ^ (8 * n) := by
  have hb := (m.byteAt (a + n)).isLt
  have hlow := loadLE_toNat_lt m a n (by omega)
  have hshift : ((m.byteAt (a + n)).setWidth 64 <<< (8 * n)).toNat = (m.byteAt (a + n)).toNat * 2 ^ (8 * n) := by
    rw [BitVec.toNat_shiftLeft, BitVec.toNat_setWidth, Nat.shiftLeft_eq,
      Nat.mod_eq_of_lt (Nat.lt_of_lt_of_le hb (by decide))]
    refine Nat.mod_eq_of_lt (Nat.lt_of_lt_of_le (Nat.mul_lt_mul_of_pos_right hb (by positivity)) ?_)
    rw [← Nat.pow_add]
    exact Nat.pow_le_pow_right (by decide) (by omega)
  rw [Memory.loadLE, BitVec.toNat_or, hshift, Nat.or_comm, Nat.mul_comm,
    ← Nat.two_pow_add_eq_or_of_lt hlow, Nat.add_comm]

end Sys2Proof.Machine
end

