-- ==== Sys2Proof/Laws/State.lean ====
section
/-! SUPPORT. One lemma per field and update of the state, and the register file's read-after-write law
(48_read_port_selector.md R204, R205), so that no later proof unfolds a record update. -/

namespace Sys2Proof.Machine

@[simp] theorem setPc_pc (s : State) (a : Addr) : (s.setPc a).pc = a := rfl
@[simp] theorem setPc_regs (s : State) (a : Addr) : (s.setPc a).regs = s.regs := rfl
@[simp] theorem setPc_mem (s : State) (a : Addr) : (s.setPc a).mem = s.mem := rfl
@[simp] theorem setPc_event (s : State) (a : Addr) : (s.setPc a).event = s.event := rfl
@[simp] theorem setPc_params (s : State) (a : Addr) : (s.setPc a).params = s.params := rfl
@[simp] theorem setPc_x (s : State) (a : Addr) (r : RegIdx) : (s.setPc a).x r = s.x r := rfl

@[simp] theorem writeReg_pc (s : State) (rd : RegIdx) (v : XWord) : (s.writeReg rd v).pc = s.pc := rfl
@[simp] theorem writeReg_regs (s : State) (rd : RegIdx) (v : XWord) :
    (s.writeReg rd v).regs = rfWrite s.regs true rd v := rfl
@[simp] theorem writeReg_mem (s : State) (rd : RegIdx) (v : XWord) : (s.writeReg rd v).mem = s.mem := rfl
@[simp] theorem writeReg_event (s : State) (rd : RegIdx) (v : XWord) : (s.writeReg rd v).event = s.event := rfl
@[simp] theorem writeReg_params (s : State) (rd : RegIdx) (v : XWord) : (s.writeReg rd v).params = s.params := rfl

theorem nextPc_eq (s : State) : s.nextPc = s.pc + 4 := rfl

/-- Index 0 reads 0 whatever its cell holds (R22, R204). -/
@[simp] theorem rfRead_zero (X : RegFile) : rfRead X 0#5 = 0 := rfl

/-- A register other than x0 reads as its cell (R204). -/
theorem rfRead_of_ne (X : RegFile) {i : RegIdx} (h : i ≠ 0) : rfRead X i = X[i.toNat]'i.isLt := if_neg h

/-- A write the port commits (R205). -/
theorem rfWrite_commit (X : RegFile) {we : Bool} {wa : RegIdx} (wd : XWord) (h : we = true ∧ wa ≠ 0) :
    rfWrite X we wa wd = X.set wa.toNat wd wa.isLt := if_pos h

/-- A write that is not enabled, or that names x0, is discarded (R22, R205). -/
theorem rfWrite_discard (X : RegFile) {we : Bool} {wa : RegIdx} (wd : XWord) (h : ¬ (we = true ∧ wa ≠ 0)) :
    rfWrite X we wa wd = X := if_neg h

/-- What a read sees after the write port's step (R204, R205). -/
theorem rfRead_rfWrite (X : RegFile) (we : Bool) (wa i : RegIdx) (wd : XWord) :
    rfRead (rfWrite X we wa wd) i = if (we = true ∧ wa ≠ 0) ∧ i = wa then wd else rfRead X i := by
  by_cases hw : we = true ∧ wa ≠ 0
  · rw [rfWrite_commit X wd hw]
    by_cases hia : i = wa
    · subst hia
      rw [if_pos ⟨hw, rfl⟩, rfRead_of_ne _ hw.2, Vector.getElem_set_self]
    · rw [if_neg fun h => hia h.2]
      by_cases hi : i = 0
      · subst hi
        rfl
      · have hne : wa.toNat ≠ i.toNat := fun h => hia (BitVec.eq_of_toNat_eq h.symm)
        rw [rfRead_of_ne _ hi, rfRead_of_ne _ hi, Vector.getElem_set_ne _ _ hne]
  · rw [rfWrite_discard X wd hw, if_neg fun h => hw h.1]

/-- The cell behind x0 is never written (R22, R205). -/
theorem rfWrite_cell_zero (X : RegFile) (we : Bool) (wa : RegIdx) (wd : XWord) : (rfWrite X we wa wd)[0] = X[0] := by
  unfold rfWrite
  split
  · rename_i h
    have hne : wa.toNat ≠ 0 := fun h0 => h.2 (BitVec.eq_of_toNat_eq h0)
    exact Vector.getElem_set_ne _ _ hne
  · rfl

@[simp] theorem x_zero (s : State) : s.x 0#5 = 0 := rfl

/-- What every register reads after one write to `rd` (R22, R205). -/
theorem writeReg_x (s : State) (rd r : RegIdx) (v : XWord) :
    (s.writeReg rd v).x r = if r = 0 then 0 else if r = rd then v else s.x r := by
  change rfRead (rfWrite s.regs true rd v) r = _
  rw [rfRead_rfWrite]
  by_cases h0 : r = 0
  · subst h0
    rw [if_neg fun h => h.1.2 h.2.symm]
    rfl
  · rw [if_neg h0]
    by_cases hr : r = rd
    · subst hr
      rw [if_pos ⟨⟨rfl, h0⟩, rfl⟩, if_pos rfl]
    · rw [if_neg fun h => hr h.2, if_neg hr, State.x]

end Sys2Proof.Machine
end

