-- ==== Sys2Proof/Laws/Ops.lean ====
section
/-! SUPPORT. One lemma per shared operation that says everything it can do, and one that says it keeps the invariant of
the state; the meanings are one line over these operations, so a proof about an instruction cites these. -/

namespace Sys2Proof

/-- No access is wider than a register (R41). -/
theorem Width.bytes_le_eight (w : Width) : w.bytes ≤ 8 := by cases w <;> decide

end Sys2Proof

namespace Sys2Proof.Machine

/-! ### Memory accesses -/

theorem accessOk_iff (s : State) (a : Addr) (n : Nat) : accessOk s.params.memSize a n = true ↔ Admitted s a n := by
  simp [accessOk, Admitted]

/-- An admitted read gives the bytes' value (R42); any other is an AccessFault (R46). -/
theorem memRead_ok {s : State} {kind : AccessKind} {a : Addr} {w : Width} (h : Admitted s a w.bytes) :
    memRead s kind a w = .ok (s.mem.loadLE a.toNat w.bytes) := if_pos ((accessOk_iff ..).mpr h)

theorem memRead_error {s : State} {kind : AccessKind} {a : Addr} {w : Width} (h : ¬ Admitted s a w.bytes) :
    memRead s kind a w = .error (.accessFault kind a w.bytes) := if_neg fun hok => h ((accessOk_iff ..).mp hok)

theorem memWrite_ok {s : State} {a : Addr} {w : Width} {v : XWord} (h : Admitted s a w.bytes) :
    memWrite s a w v = .ok { s with mem := s.mem.storeLE a.toNat v w.bytes } := if_pos ((accessOk_iff ..).mpr h)

theorem memWrite_error {s : State} {a : Addr} {w : Width} {v : XWord} (h : ¬ Admitted s a w.bytes) :
    memWrite s a w v = .error (.accessFault .write a w.bytes) := if_neg fun hok => h ((accessOk_iff ..).mp hok)

/-- The value a load of up to 8 bytes returns is the little-endian value of those bytes (R42). -/
theorem loadLE_toNat (s : State) (a n : Nat) (hn : n ≤ 8) : (s.mem.loadLE a n).toNat = s.bytesValue a n := by
  induction n with
  | zero => rfl
  | succ n ih => rw [loadLE_toNat_succ _ _ _ (by omega), ih (by omega)]; rfl

/-! ### The ends of a step -/

theorem wrote_setPc_writeReg (s : State) (rd : RegIdx) (v : XWord) (pc' : Addr) :
    Wrote s ((s.writeReg rd v).setPc pc') rd v pc' :=
  ⟨rfl, fun r => writeReg_x s rd r v, fun _ => rfl, rfl, rfl⟩

theorem onlyMoved_setPc (s : State) (pc' : Addr) : OnlyMoved s (s.setPc pc') pc' :=
  ⟨rfl, fun _ => rfl, fun _ => rfl, rfl, rfl⟩

theorem retire_next (rd : RegIdx) (v : XWord) (s : State) :
    ∃ t, retire rd v s = .next t ∧ Wrote s t rd v (s.pc + 4) := ⟨_, rfl, wrote_setPc_writeReg ..⟩

theorem retireNone_next (s : State) : ∃ t, retireNone s = .next t ∧ OnlyMoved s t (s.pc + 4) :=
  ⟨_, rfl, onlyMoved_setPc ..⟩

theorem jumpTo_next (rd : RegIdx) (target : Addr) (s : State) :
    ∃ t, jumpTo rd target s = .next t ∧ Wrote s t rd (s.pc + 4) target := ⟨_, rfl, wrote_setPc_writeReg ..⟩

theorem branchTo_next (taken : Bool) (offset : XWord) (s : State) :
    ∃ t, branchTo taken offset s = .next t ∧ OnlyMoved s t (if taken then s.pc + offset else s.pc + 4) :=
  ⟨_, rfl, onlyMoved_setPc ..⟩

theorem loadTo_next {rd : RegIdx} {a : Addr} {w : Width} {ext : XWord → XWord} {s : State}
    (h : Admitted s a w.bytes) :
    ∃ t, loadTo rd a w ext s = .next t ∧ Wrote s t rd (ext (s.mem.loadLE a.toNat w.bytes)) (s.pc + 4) := by
  unfold loadTo
  rw [memRead_ok h]
  exact retire_next ..

theorem loadTo_fault {rd : RegIdx} {a : Addr} {w : Width} {ext : XWord → XWord} {s : State}
    (h : ¬ Admitted s a w.bytes) : loadTo rd a w ext s = .fault (.accessFault .read a w.bytes) := by
  unfold loadTo
  rw [memRead_error h]

theorem storeAt_next {a : Addr} {w : Width} {v : XWord} {s : State} (h : Admitted s a w.bytes) :
    storeAt a w v s = .next (State.setPc { s with mem := s.mem.storeLE a.toNat v w.bytes } s.nextPc) := by
  unfold storeAt
  rw [memWrite_ok h]

theorem storeAt_fault {a : Addr} {w : Width} {v : XWord} {s : State} (h : ¬ Admitted s a w.bytes) :
    storeAt a w v s = .fault (.accessFault .write a w.bytes) := by
  unfold storeAt
  rw [memWrite_error h]

/-- What an admitted store leaves (R43, R250). -/
theorem stored_storeLE (s : State) (hwf : s.mem.wf) (a : Addr) (n : Nat) (v : XWord) (pc' : Addr) :
    Stored s (State.setPc { s with mem := s.mem.storeLE a.toNat v n } pc') a n v pc' := by
  refine ⟨rfl, fun _ => rfl, fun k hk => ?_, fun b hb => ?_, rfl, rfl⟩
  · change ((s.mem.storeLE a.toNat v n).byteAt (a.toNat + k)).toNat = _
    rw [byteAt_storeLE hwf, if_pos (by omega), Nat.add_sub_cancel_left, BitVec.extractLsb'_toNat,
      Nat.shiftRight_eq_div_pow]
  · change (s.mem.storeLE a.toNat v n).byteAt b = _
    rw [byteAt_storeLE hwf, if_neg (by omega)]
    rfl

/-! ### Lists of instructions -/

@[simp] theorem execSeq_nil (s : State) : execSeq [] s = .next s := rfl

/-- A list whose first instruction completes goes on with the rest in the state that leaves. -/
theorem execSeq_cons {i : Instr} {is : List Instr} {s t : State} (h : exec i s = .next t) :
    execSeq (i :: is) s = execSeq is t := by
  rw [execSeq, h]

theorem execSeq_single {i : Instr} {s t : State} (h : exec i s = .next t) : execSeq [i] s = .next t := execSeq_cons h

theorem execSeq_pair {i j : Instr} {s t u : State} (h : exec i s = .next t) (h' : exec j t = .next u) :
    execSeq [i, j] s = .next u := (execSeq_cons h).trans (execSeq_single h')

/-- One instruction as a list: what `Computes` and `MovesBy` say of it holds of the list. -/
theorem seqComputes_of_computes {i : Instr} {s : State} {rd : RegIdx} {P : XWord → Prop} (h : Computes i s rd P) :
    SeqComputes [i] s rd 4 P := by
  obtain ⟨t, v, hx, hw⟩ := h
  exact ⟨t, v, execSeq_single hx, hw⟩

theorem seqMovesBy_of_movesBy {i : Instr} {s : State} {off : Int} (h : MovesBy i s off) : SeqMovesBy [i] s off := by
  obtain ⟨t, hx, hm⟩ := h
  exact ⟨t, execSeq_single hx, hm⟩

/-- A write that names x0 only moves the pc (R22). -/
theorem onlyMoved_of_wrote_zero {s t : State} {v : XWord} {a : Addr} (h : Wrote s t 0 v a) : OnlyMoved s t a := by
  refine ⟨h.1, fun r => ?_, h.2.2⟩
  rw [h.2.1]
  split
  · rename_i h0
    rw [h0]
    rfl
  · rfl

/-- Two writes of one register, one after the other, leave what the second one alone would. -/
theorem wrote_trans {s t u : State} {rd : RegIdx} {v v' : XWord} {a b : Addr} (h : Wrote s t rd v a)
    (h' : Wrote t u rd v' b) : Wrote s u rd v' b := by
  obtain ⟨-, hx, hm, he, hp⟩ := h
  obtain ⟨hpc, hx', hm', he', hp'⟩ := h'
  refine ⟨hpc, fun r => ?_, fun c => (hm' c).trans (hm c), he'.trans he, hp'.trans hp⟩
  rw [hx' r]
  split
  · rfl
  · rename_i h0
    split
    · rfl
    · rename_i hr
      rw [hx r, if_neg h0, if_neg hr]

/-! ### The invariant -/

theorem inv_setPc {s : State} (h : s.Inv) (a : Addr) : (s.setPc a).Inv := h

theorem inv_writeReg {s : State} (h : s.Inv) (rd : RegIdx) (v : XWord) : (s.writeReg rd v).Inv := h

theorem inv_setEvent {s : State} (h : s.Inv) (e : Option Event) : State.Inv { s with event := e } := h

theorem inv_storeLE {s : State} (h : s.Inv) {a : Addr} {n : Nat} (ha : Admitted s a n) (v : XWord) :
    State.Inv { s with mem := s.mem.storeLE a.toNat v n } :=
  ⟨storeLE_wf h.1 .., storeLE_within h.2 _ _ _ ha.2⟩

theorem inv_retire {rd : RegIdx} {v : XWord} {s t : State} (h : s.Inv) (ht : retire rd v s = .next t) : t.Inv := by
  cases ht
  exact inv_setPc (inv_writeReg h rd v) _

theorem inv_retireNone {s t : State} (h : s.Inv) (ht : retireNone s = .next t) : t.Inv := by
  cases ht
  exact inv_setPc h _

theorem inv_jumpTo {rd : RegIdx} {target : Addr} {s t : State} (h : s.Inv) (ht : jumpTo rd target s = .next t) :
    t.Inv := by
  cases ht
  exact inv_setPc (inv_writeReg h rd _) _

theorem inv_branchTo {taken : Bool} {offset : XWord} {s t : State} (h : s.Inv)
    (ht : branchTo taken offset s = .next t) : t.Inv := by
  cases ht
  exact inv_setPc h _

theorem inv_endRun {e : Event} {s t : State} (h : s.Inv) (ht : endRun e s = .next t) : t.Inv := by
  cases ht
  exact inv_setEvent h _

theorem inv_loadTo {rd : RegIdx} {a : Addr} {w : Width} {ext : XWord → XWord} {s t : State} (h : s.Inv)
    (ht : loadTo rd a w ext s = .next t) : t.Inv := by
  unfold loadTo at ht
  split at ht
  · exact inv_retire h ht
  · cases ht

theorem inv_storeAt {a : Addr} {w : Width} {v : XWord} {s t : State} (h : s.Inv)
    (ht : storeAt a w v s = .next t) : t.Inv := by
  by_cases ha : Admitted s a w.bytes
  · rw [storeAt_next ha] at ht
    cases ht
    exact inv_setPc (inv_storeLE h ha v) _
  · rw [storeAt_fault ha] at ht
    cases ht

/-- The loader's image is in canonical form and inside memory (R40, R49). -/
theorem loadImage_wf_within (memSize : Nat) (cells : List Host.Cell) :
    (loadImage memSize cells).wf ∧ (loadImage memSize cells).within memSize := by
  have step : ∀ (cells : List Host.Cell) (m : Memory), m.wf → m.within memSize →
      (cells.foldl (fun m c => if c.1 < memSize then m.setByte c.1 c.2 else m) m).wf ∧
      Memory.within (cells.foldl (fun m c => if c.1 < memSize then m.setByte c.1 c.2 else m) m) memSize := by
    intro cells
    induction cells with
    | nil => exact fun m h1 h2 => ⟨h1, h2⟩
    | cons c cells ih =>
      intro m h1 h2
      rw [List.foldl_cons]
      split
      · rename_i hc
        exact ih _ (setByte_wf h1 ..) (setByte_within h2 hc _)
      · exact ih _ h1 h2
  exact step cells [] ⟨List.Pairwise.nil, by simp⟩ (by simp [Memory.within])

end Sys2Proof.Machine
end

