-- ==== Sys2Proof/Laws/PerInstr.lean ====
section
/-! SUPPORT. Family RowMatches: the encoding of every instruction matches the row of its own mnemonic (30_encoding.md
R80), one lemma per constructor. -/

namespace Sys2Proof.Laws.RowMatches

/-- Some row of the table has the instruction's mnemonic and matches its encoding. -/
def Statement (i : Instr) : Prop := ∃ r ∈ table, r.mnemonic = i.mnemonic ∧ encode i &&& r.mask = r.value

theorem add (rd rs1 rs2 : RegIdx) : Statement (.add rd rs1 rs2) :=
  ⟨⟨.add, .R, 0x00000033, 0xFE00707F⟩, by decide, rfl, (encodeR_mask ..).trans (by decide)⟩

theorem sub (rd rs1 rs2 : RegIdx) : Statement (.sub rd rs1 rs2) :=
  ⟨⟨.sub, .R, 0x40000033, 0xFE00707F⟩, by decide, rfl, (encodeR_mask ..).trans (by decide)⟩

theorem sll (rd rs1 rs2 : RegIdx) : Statement (.sll rd rs1 rs2) :=
  ⟨⟨.sll, .R, 0x00001033, 0xFE00707F⟩, by decide, rfl, (encodeR_mask ..).trans (by decide)⟩

theorem slt (rd rs1 rs2 : RegIdx) : Statement (.slt rd rs1 rs2) :=
  ⟨⟨.slt, .R, 0x00002033, 0xFE00707F⟩, by decide, rfl, (encodeR_mask ..).trans (by decide)⟩

theorem sltu (rd rs1 rs2 : RegIdx) : Statement (.sltu rd rs1 rs2) :=
  ⟨⟨.sltu, .R, 0x00003033, 0xFE00707F⟩, by decide, rfl, (encodeR_mask ..).trans (by decide)⟩

theorem xor (rd rs1 rs2 : RegIdx) : Statement (.xor rd rs1 rs2) :=
  ⟨⟨.xor, .R, 0x00004033, 0xFE00707F⟩, by decide, rfl, (encodeR_mask ..).trans (by decide)⟩

theorem srl (rd rs1 rs2 : RegIdx) : Statement (.srl rd rs1 rs2) :=
  ⟨⟨.srl, .R, 0x00005033, 0xFE00707F⟩, by decide, rfl, (encodeR_mask ..).trans (by decide)⟩

theorem sra (rd rs1 rs2 : RegIdx) : Statement (.sra rd rs1 rs2) :=
  ⟨⟨.sra, .R, 0x40005033, 0xFE00707F⟩, by decide, rfl, (encodeR_mask ..).trans (by decide)⟩

theorem or (rd rs1 rs2 : RegIdx) : Statement (.or rd rs1 rs2) :=
  ⟨⟨.or, .R, 0x00006033, 0xFE00707F⟩, by decide, rfl, (encodeR_mask ..).trans (by decide)⟩

theorem and (rd rs1 rs2 : RegIdx) : Statement (.and rd rs1 rs2) :=
  ⟨⟨.and, .R, 0x00007033, 0xFE00707F⟩, by decide, rfl, (encodeR_mask ..).trans (by decide)⟩

theorem addw (rd rs1 rs2 : RegIdx) : Statement (.addw rd rs1 rs2) :=
  ⟨⟨.addw, .R, 0x0000003B, 0xFE00707F⟩, by decide, rfl, (encodeR_mask ..).trans (by decide)⟩

theorem subw (rd rs1 rs2 : RegIdx) : Statement (.subw rd rs1 rs2) :=
  ⟨⟨.subw, .R, 0x4000003B, 0xFE00707F⟩, by decide, rfl, (encodeR_mask ..).trans (by decide)⟩

theorem sllw (rd rs1 rs2 : RegIdx) : Statement (.sllw rd rs1 rs2) :=
  ⟨⟨.sllw, .R, 0x0000103B, 0xFE00707F⟩, by decide, rfl, (encodeR_mask ..).trans (by decide)⟩

theorem srlw (rd rs1 rs2 : RegIdx) : Statement (.srlw rd rs1 rs2) :=
  ⟨⟨.srlw, .R, 0x0000503B, 0xFE00707F⟩, by decide, rfl, (encodeR_mask ..).trans (by decide)⟩

theorem sraw (rd rs1 rs2 : RegIdx) : Statement (.sraw rd rs1 rs2) :=
  ⟨⟨.sraw, .R, 0x4000503B, 0xFE00707F⟩, by decide, rfl, (encodeR_mask ..).trans (by decide)⟩

theorem addi (rd rs1 : RegIdx) (imm : BitVec 12) : Statement (.addi rd rs1 imm) :=
  ⟨⟨.addi, .I, 0x00000013, 0x0000707F⟩, by decide, rfl, (encodeI_mask ..).trans (by decide)⟩

theorem slti (rd rs1 : RegIdx) (imm : BitVec 12) : Statement (.slti rd rs1 imm) :=
  ⟨⟨.slti, .I, 0x00002013, 0x0000707F⟩, by decide, rfl, (encodeI_mask ..).trans (by decide)⟩

theorem sltiu (rd rs1 : RegIdx) (imm : BitVec 12) : Statement (.sltiu rd rs1 imm) :=
  ⟨⟨.sltiu, .I, 0x00003013, 0x0000707F⟩, by decide, rfl, (encodeI_mask ..).trans (by decide)⟩

theorem xori (rd rs1 : RegIdx) (imm : BitVec 12) : Statement (.xori rd rs1 imm) :=
  ⟨⟨.xori, .I, 0x00004013, 0x0000707F⟩, by decide, rfl, (encodeI_mask ..).trans (by decide)⟩

theorem ori (rd rs1 : RegIdx) (imm : BitVec 12) : Statement (.ori rd rs1 imm) :=
  ⟨⟨.ori, .I, 0x00006013, 0x0000707F⟩, by decide, rfl, (encodeI_mask ..).trans (by decide)⟩

theorem andi (rd rs1 : RegIdx) (imm : BitVec 12) : Statement (.andi rd rs1 imm) :=
  ⟨⟨.andi, .I, 0x00007013, 0x0000707F⟩, by decide, rfl, (encodeI_mask ..).trans (by decide)⟩

theorem slli (rd rs1 : RegIdx) (shamt : BitVec 6) : Statement (.slli rd rs1 shamt) :=
  ⟨⟨.slli, .I, 0x00001013, 0xFC00707F⟩, by decide, rfl, (encodeI_shift_mask ..).trans (by decide)⟩

theorem srli (rd rs1 : RegIdx) (shamt : BitVec 6) : Statement (.srli rd rs1 shamt) :=
  ⟨⟨.srli, .I, 0x00005013, 0xFC00707F⟩, by decide, rfl, (encodeI_shift_mask ..).trans (by decide)⟩

theorem srai (rd rs1 : RegIdx) (shamt : BitVec 6) : Statement (.srai rd rs1 shamt) :=
  ⟨⟨.srai, .I, 0x40005013, 0xFC00707F⟩, by decide, rfl, (encodeI_shift_mask ..).trans (by decide)⟩

theorem addiw (rd rs1 : RegIdx) (imm : BitVec 12) : Statement (.addiw rd rs1 imm) :=
  ⟨⟨.addiw, .I, 0x0000001B, 0x0000707F⟩, by decide, rfl, (encodeI_mask ..).trans (by decide)⟩

theorem slliw (rd rs1 : RegIdx) (shamt5 : BitVec 5) : Statement (.slliw rd rs1 shamt5) :=
  ⟨⟨.slliw, .I, 0x0000101B, 0xFE00707F⟩, by decide, rfl, (encodeI_shift5_mask ..).trans (by decide)⟩

theorem srliw (rd rs1 : RegIdx) (shamt5 : BitVec 5) : Statement (.srliw rd rs1 shamt5) :=
  ⟨⟨.srliw, .I, 0x0000501B, 0xFE00707F⟩, by decide, rfl, (encodeI_shift5_mask ..).trans (by decide)⟩

theorem sraiw (rd rs1 : RegIdx) (shamt5 : BitVec 5) : Statement (.sraiw rd rs1 shamt5) :=
  ⟨⟨.sraiw, .I, 0x4000501B, 0xFE00707F⟩, by decide, rfl, (encodeI_shift5_mask ..).trans (by decide)⟩

theorem lb (rd rs1 : RegIdx) (imm : BitVec 12) : Statement (.lb rd rs1 imm) :=
  ⟨⟨.lb, .I, 0x00000003, 0x0000707F⟩, by decide, rfl, (encodeI_mask ..).trans (by decide)⟩

theorem lh (rd rs1 : RegIdx) (imm : BitVec 12) : Statement (.lh rd rs1 imm) :=
  ⟨⟨.lh, .I, 0x00001003, 0x0000707F⟩, by decide, rfl, (encodeI_mask ..).trans (by decide)⟩

theorem lw (rd rs1 : RegIdx) (imm : BitVec 12) : Statement (.lw rd rs1 imm) :=
  ⟨⟨.lw, .I, 0x00002003, 0x0000707F⟩, by decide, rfl, (encodeI_mask ..).trans (by decide)⟩

theorem ld (rd rs1 : RegIdx) (imm : BitVec 12) : Statement (.ld rd rs1 imm) :=
  ⟨⟨.ld, .I, 0x00003003, 0x0000707F⟩, by decide, rfl, (encodeI_mask ..).trans (by decide)⟩

theorem lbu (rd rs1 : RegIdx) (imm : BitVec 12) : Statement (.lbu rd rs1 imm) :=
  ⟨⟨.lbu, .I, 0x00004003, 0x0000707F⟩, by decide, rfl, (encodeI_mask ..).trans (by decide)⟩

theorem lhu (rd rs1 : RegIdx) (imm : BitVec 12) : Statement (.lhu rd rs1 imm) :=
  ⟨⟨.lhu, .I, 0x00005003, 0x0000707F⟩, by decide, rfl, (encodeI_mask ..).trans (by decide)⟩

theorem lwu (rd rs1 : RegIdx) (imm : BitVec 12) : Statement (.lwu rd rs1 imm) :=
  ⟨⟨.lwu, .I, 0x00006003, 0x0000707F⟩, by decide, rfl, (encodeI_mask ..).trans (by decide)⟩

theorem jalr (rd rs1 : RegIdx) (imm : BitVec 12) : Statement (.jalr rd rs1 imm) :=
  ⟨⟨.jalr, .I, 0x00000067, 0x0000707F⟩, by decide, rfl, (encodeI_mask ..).trans (by decide)⟩

theorem fence (fm pred succ : BitVec 4) (rs1 rd : RegIdx) : Statement (.fence fm pred succ rs1 rd) :=
  ⟨⟨.fence, .I, 0x0000000F, 0x0000707F⟩, by decide, rfl, (encodeI_mask ..).trans (by decide)⟩

theorem ecall : Statement (.ecall) :=
  ⟨⟨.ecall, .I, 0x00000073, 0xFFFFFFFF⟩, by decide, rfl, by decide⟩

theorem ebreak : Statement (.ebreak) :=
  ⟨⟨.ebreak, .I, 0x00100073, 0xFFFFFFFF⟩, by decide, rfl, by decide⟩

theorem sb (rs1 rs2 : RegIdx) (imm : BitVec 12) : Statement (.sb rs1 rs2 imm) :=
  ⟨⟨.sb, .S, 0x00000023, 0x0000707F⟩, by decide, rfl, (encodeS_mask ..).trans (by decide)⟩

theorem sh (rs1 rs2 : RegIdx) (imm : BitVec 12) : Statement (.sh rs1 rs2 imm) :=
  ⟨⟨.sh, .S, 0x00001023, 0x0000707F⟩, by decide, rfl, (encodeS_mask ..).trans (by decide)⟩

theorem sw (rs1 rs2 : RegIdx) (imm : BitVec 12) : Statement (.sw rs1 rs2 imm) :=
  ⟨⟨.sw, .S, 0x00002023, 0x0000707F⟩, by decide, rfl, (encodeS_mask ..).trans (by decide)⟩

theorem sd (rs1 rs2 : RegIdx) (imm : BitVec 12) : Statement (.sd rs1 rs2 imm) :=
  ⟨⟨.sd, .S, 0x00003023, 0x0000707F⟩, by decide, rfl, (encodeS_mask ..).trans (by decide)⟩

theorem beq (rs1 rs2 : RegIdx) (imm : BitVec 13) : Statement (.beq rs1 rs2 imm) :=
  ⟨⟨.beq, .B, 0x00000063, 0x0000707F⟩, by decide, rfl, (encodeB_mask ..).trans (by decide)⟩

theorem bne (rs1 rs2 : RegIdx) (imm : BitVec 13) : Statement (.bne rs1 rs2 imm) :=
  ⟨⟨.bne, .B, 0x00001063, 0x0000707F⟩, by decide, rfl, (encodeB_mask ..).trans (by decide)⟩

theorem blt (rs1 rs2 : RegIdx) (imm : BitVec 13) : Statement (.blt rs1 rs2 imm) :=
  ⟨⟨.blt, .B, 0x00004063, 0x0000707F⟩, by decide, rfl, (encodeB_mask ..).trans (by decide)⟩

theorem bge (rs1 rs2 : RegIdx) (imm : BitVec 13) : Statement (.bge rs1 rs2 imm) :=
  ⟨⟨.bge, .B, 0x00005063, 0x0000707F⟩, by decide, rfl, (encodeB_mask ..).trans (by decide)⟩

theorem bltu (rs1 rs2 : RegIdx) (imm : BitVec 13) : Statement (.bltu rs1 rs2 imm) :=
  ⟨⟨.bltu, .B, 0x00006063, 0x0000707F⟩, by decide, rfl, (encodeB_mask ..).trans (by decide)⟩

theorem bgeu (rs1 rs2 : RegIdx) (imm : BitVec 13) : Statement (.bgeu rs1 rs2 imm) :=
  ⟨⟨.bgeu, .B, 0x00007063, 0x0000707F⟩, by decide, rfl, (encodeB_mask ..).trans (by decide)⟩

theorem lui (rd : RegIdx) (imm20 : BitVec 20) : Statement (.lui rd imm20) :=
  ⟨⟨.lui, .U, 0x00000037, 0x0000007F⟩, by decide, rfl, (encodeU_mask ..).trans (by decide)⟩

theorem auipc (rd : RegIdx) (imm20 : BitVec 20) : Statement (.auipc rd imm20) :=
  ⟨⟨.auipc, .U, 0x00000017, 0x0000007F⟩, by decide, rfl, (encodeU_mask ..).trans (by decide)⟩

theorem jal (rd : RegIdx) (imm : BitVec 21) : Statement (.jal rd imm) :=
  ⟨⟨.jal, .J, 0x0000006F, 0x0000007F⟩, by decide, rfl, (encodeJ_mask ..).trans (by decide)⟩

theorem r4Madd (fd fs1 fs2 fs3 : BitVec 5) (funct2 : BitVec 2) (funct3 : BitVec 3) : Statement (.r4Madd fd fs1 fs2 fs3 funct2 funct3) :=
  ⟨⟨.r4Madd, .R4, 0x00000043, 0x0000007F⟩, by decide, rfl, (encodeR4_mask ..).trans (by decide)⟩

theorem r4Msub (fd fs1 fs2 fs3 : BitVec 5) (funct2 : BitVec 2) (funct3 : BitVec 3) : Statement (.r4Msub fd fs1 fs2 fs3 funct2 funct3) :=
  ⟨⟨.r4Msub, .R4, 0x00000047, 0x0000007F⟩, by decide, rfl, (encodeR4_mask ..).trans (by decide)⟩

theorem r4Nmsub (fd fs1 fs2 fs3 : BitVec 5) (funct2 : BitVec 2) (funct3 : BitVec 3) : Statement (.r4Nmsub fd fs1 fs2 fs3 funct2 funct3) :=
  ⟨⟨.r4Nmsub, .R4, 0x0000004B, 0x0000007F⟩, by decide, rfl, (encodeR4_mask ..).trans (by decide)⟩

theorem r4Nmadd (fd fs1 fs2 fs3 : BitVec 5) (funct2 : BitVec 2) (funct3 : BitVec 3) : Statement (.r4Nmadd fd fs1 fs2 fs3 funct2 funct3) :=
  ⟨⟨.r4Nmadd, .R4, 0x0000004F, 0x0000007F⟩, by decide, rfl, (encodeR4_mask ..).trans (by decide)⟩

end Sys2Proof.Laws.RowMatches
end

