-- ==== Sys2Proof/Tests/Slice0.lean ====
section
/-! SUPPORT. The model's own tests, and a witness for the hypotheses of every statement that has some. Every expected
value comes from 95_test_vectors.md, or is worked out by hand from the rule a comment names. -/

namespace Sys2Proof.Tests

open Sys2Proof Sys2Proof.Machine

/-! ### WellFormed refuses what no word stands for (R65, R67, R80) -/

theorem test_wf_branch_offset_odd : (Instr.beq 10 11 7).wf true = false := by decide
theorem test_wf_every_branch_checks_its_offset :
    [Instr.bne 1 2 1, .blt 1 2 1, .bge 1 2 1, .bltu 1 2 1, .bgeu 1 2 4095].map (Instr.wf true) =
      [false, false, false, false, false] := by decide
theorem test_wf_jump_offset_odd : (Instr.jal 1 0x1FFFFF).wf true = false := by decide
theorem test_wf_r4_needs_hasR4 :
    [Instr.r4Madd 1 2 3 4 0 7, .r4Msub 1 2 3 4 0 7, .r4Nmsub 1 2 3 4 0 7, .r4Nmadd 1 2 3 4 0 7].map (Instr.wf false) =
      [false, false, false, false] := by decide

/-! ### Decoding: the words of 95_test_vectors.md section 2, every constructor once -/

theorem test_decode_op :
    [0x00C58533, 0x407302B3, 0x013914B3, 0x00B02533, 0x00B03533].map (decode false) =
      [some (.add 10 11 12), some (.sub 5 6 7), some (.sll 9 18 19), some (.slt 10 0 11), some (.sltu 10 0 11)] ∧
    [0x01EECE33, 0x00F756B3, 0x4148D833, 0x017B6AB3, 0x003170B3].map (decode false) =
      [some (.xor 28 29 30), some (.srl 13 14 15), some (.sra 16 17 20), some (.or 21 22 23), some (.and 1 2 3)] := by
  decide

theorem test_decode_op32 :
    [0x00B5053B, 0x405002BB, 0x01AC9C3B, 0x01CFDDBB, 0x40E6D63B].map (decode false) =
      [some (.addw 10 10 11), some (.subw 5 0 5), some (.sllw 24 25 26), some (.srlw 27 31 28),
        some (.sraw 12 13 14)] := by decide

theorem test_decode_op_imm :
    [0xFFF00513, 0x80032293, 0x0015B513, 0xFFF5C513, 0x7FF3E313, 0x0FF7F793].map (decode false) =
      [some (.addi 10 0 (-1)), some (.slti 5 6 (-2048)), some (.sltiu 10 11 1), some (.xori 10 11 (-1)),
        some (.ori 6 7 2047), some (.andi 15 15 255)] ∧
    [0x03F51513, 0x0202D293, 0x4015D593].map (decode false) =
      [some (.slli 10 10 63), some (.srli 5 5 32), some (.srai 11 11 1)] := by decide

theorem test_decode_op_imm32 :
    [0x0005051B, 0x01F5951B, 0x0015D51B, 0x41F5D51B].map (decode false) =
      [some (.addiw 10 10 0), some (.slliw 10 11 31), some (.srliw 10 11 1), some (.sraiw 10 11 31)] := by decide

theorem test_decode_load :
    [0xFFF10503, 0x00251583, 0x80042283, 0x00813083].map (decode false) =
      [some (.lb 10 2 (-1)), some (.lh 11 10 2), some (.lw 5 8 (-2048)), some (.ld 1 2 8)] ∧
    [0x7FF6C603, 0x0007D703, 0x0048E803].map (decode false) =
      [some (.lbu 12 13 2047), some (.lhu 14 15 0), some (.lwu 16 17 4)] := by decide

theorem test_decode_jalr_fence_system :
    [0x00008067, 0xFFC300E7, 0x8330000F, 0x0100000F, 0x00000073, 0x00100073].map (decode false) =
      [some (.jalr 0 1 0), some (.jalr 1 6 (-4)), some (.fence 8 3 3 0 0), some (.fence 0 1 0 0 0), some .ecall,
        some .ebreak] := by decide

theorem test_decode_store :
    [0xFEA10FA3, 0x00B51123, 0x80542023, 0x7E013FA3].map (decode false) =
      [some (.sb 2 10 (-1)), some (.sh 10 11 2), some (.sw 8 5 (-2048)), some (.sd 2 0 2047)] := by decide

theorem test_decode_branch :
    [0x00B50463, 0xFE029EE3, 0x80B54063, 0x7EB55FE3, 0x0124E0E3, 0xFEA07FE3].map (decode false) =
      [some (.beq 10 11 8), some (.bne 5 0 (-4)), some (.blt 10 11 (-4096)), some (.bge 10 11 4094),
        some (.bltu 9 18 2048), some (.bgeu 0 10 (-2))] := by decide

theorem test_decode_upper_jal :
    [0x12345537, 0xFFFFF317, 0x001000EF, 0x8000006F].map (decode false) =
      [some (.lui 10 0x12345), some (.auipc 6 0xFFFFF), some (.jal 1 2048), some (.jal 0 (-1048576))] := by decide

theorem test_decode_r4 :
    [0x203170C3, 0x203170C7, 0x203170CB, 0x203170CF].map (decode true) =
      [some (.r4Madd 1 2 3 4 0 7), some (.r4Msub 1 2 3 4 0 7), some (.r4Nmsub 1 2 3 4 0 7),
        some (.r4Nmadd 1 2 3 4 0 7)] ∧
    [0x203170C3, 0x203170C7, 0x203170CB, 0x203170CF].map (decode false) = [none, none, none, none] := by decide

/-- ADD written out bit by bit from R62 and R101: funct7, rs2 = 12, rs1 = 11, funct3, rd = 10, opcode. -/
theorem test_decode_add_bits : decode false 0b0000000_01100_01011_000_01010_0110011 = some (.add 10 11 12) := by decide

/-- Words no row matches (the rows marked unsupported of section 2). -/
theorem test_decode_unsupported :
    [0x02A50533, 0x40B54533, 0x00B5253B, 0x80000033, 0x04001013, 0x40001013, 0x0200101B, 0x0000201B].map
      (decode false) = [none, none, none, none, none, none, none, none] ∧
    [0x00007003, 0x00001067, 0x0000100F, 0x00200073, 0x30200073, 0x10500073, 0x30002573, 0x00000573].map
      (decode false) = [none, none, none, none, none, none, none, none] ∧
    [0x00004023, 0x00002063, 0x12345678, 0x00000000, 0xFFFFFFFF, 0x0000202F, 0x00002007, 0x00004501].map
      (decode true) = [none, none, none, none, none, none, none, none] := by decide

theorem test_decode_bytes_rejects_by_name :
    decodeBytes false [0x13, 0, 0] = .error .tooShort ∧
    decodeBytes false [0x33, 0x05, 0xA5, 0x02, 0xFF] = .error (.unsupported 0x02A50533) ∧
    decodeBytes false [0x33, 0x85, 0xC5, 0x00, 0xFF] = .ok (.add 10 11 12, [0xFF]) := by decide

theorem test_decode_table_word :
    decodeTableWord 32 0x00C58533 = some (.add 10 11 12) ∧ decodeTableWord 32 0x203170C3 = some (.r4Madd 1 2 3 4 0 7) ∧
    decodeTableWord 32 0x02A50533 = none ∧ decodeTableWord 64 0x00C58533 = none := by decide

/-! ### The outputs of IDEC and RPS -/

/-- V4 and V8: the sign of each format's immediate, and the lowest bit of the B and J ones. -/
theorem test_immediates :
    [immI 0x80000013, immS 0x80000023, immB 0x80000063, immJ 0x8000006F] =
      [0xFFFFFFFFFFFFF800, 0xFFFFFFFFFFFFF800, 0xFFFFFFFFFFFFF000, 0xFFFFFFFFFFF00000] ∧
    [immI 0x7FF00013, immS 0x7E000FA3, immB 0x7E000FE3, immJ 0x7FFFF06F] = [0x7FF, 0x7FF, 0xFFE, 0xFFFFE] ∧
    [immB 0xFFFFFFE3, immJ 0xFFFFFFEF] = [-2, -2] := by decide

/-- V9, and the LUI rows of section 2. -/
theorem test_upper_immediate :
    [immU32Of 0xFFFFFFB7, immU32Of 0x00000FB7, immU32Of 0x12345FB7] = [0xFFFFF000, 0, 0x12345000] ∧
    [immU 0x12345537, immU 0x800002B7] = [0x12345000, 0xFFFFFFFF80000000] := by decide

/-- V1: an unmapped word's outputs are all driven, and its I view is as the source says. -/
theorem test_bundle_of_v1 :
    let d := idec false 0x12345678
    (d.fmt = .NONE ∧ d.instr = none ∧ d.unsupported = true ∧ d.imm = 0 ∧ d.rd = 12 ∧ d.rs1 = 8 ∧ d.rs2 = 3) ∧
    viewI 0x12345678 = { opcode := 0x78, rd := 12, funct3 := 5, rs1 := 8, imm := 0x123 } := by decide

/-- The sub-field tables of section 2. -/
theorem test_subfields :
    let d := idec false 0x0202D293
    let e := idec false 0x8330000F
    (d.shamt = 32 ∧ d.shamt5 = 0 ∧ d.funct6 = 0 ∧ d.funct7 = 1) ∧
    (e.fenceFm = 8 ∧ e.fencePred = 3 ∧ e.fenceSucc = 3 ∧ e.funct12 = 0x833) := by decide

/-- `X i = 0x1000 + i`, the registers of R213 and of section 3. -/
def countRegs : RegFile := Vector.ofFn fun i => if i.val = 0 then 0 else 0x1000 + BitVec.ofNat 64 i.val

/-- Rows of R213. -/
theorem test_ports :
    rps (idec false 0x00113423) countRegs =
      { aEn := true, aIdx := 2, aData := 0x1002, bEn := true, bIdx := 1, bData := 0x1001 } ∧
    rps (idec false 0xFFF00513) countRegs =
      { aEn := true, aIdx := 0, aData := 0, bEn := false, bIdx := 0, bData := 0 } ∧
    rps (idec false 0x0200C533) countRegs =
      { aEn := true, aIdx := 1, aData := 0x1001, bEn := true, bIdx := 0, bData := 0 } ∧
    rps (idec false 0x12345678) countRegs =
      { aEn := false, aIdx := 0, aData := 0, bEn := false, bIdx := 0, bData := 0 } := by decide

/-- R4 of section 3, without and with the bypass. -/
theorem test_block_bypass :
    let inp : BlockInput := { word := 0x00A50533, we := true, wa := 10, wd := 0x2014 }
    let off := blockStep { memSize := 0, hasR4 := false, rfBypass := false } countRegs inp
    let on := blockStep { memSize := 0, hasR4 := false, rfBypass := true } countRegs inp
    [off.ports.aData, off.ports.bData, rfRead off.regs 10] = [0x100A, 0x100A, 0x2014] ∧
    [on.ports.aData, on.ports.bData, rfRead on.regs 10] = [0x2014, 0x2014, 0x2014] := by decide

/-- W1 to W3 of section 3. -/
theorem test_write_port :
    rfWrite countRegs true 0 0xDEADBEEFDEADBEEF = countRegs ∧
    rfRead (rfWrite countRegs true 7 0x8000000000000001) 7 = 0x8000000000000001 ∧
    rfWrite countRegs false 5 1 = countRegs := by decide

/-! ### Memory, section 4 of 95_test_vectors.md -/

/-- `MEM_SIZE` = 0x2000 and the eight bytes of section 4. -/
def memState : State :=
  { State.reset with
    params := { memSize := 0x2000, hasR4 := false, rfBypass := false },
    mem := [(0x100, 0x01), (0x101, 0x23), (0x102, 0x45), (0x103, 0x67), (0x104, 0x89), (0x105, 0xAB), (0x106, 0xCD),
      (0x107, 0xEF)] }

theorem test_mem_read :
    memRead memState .read 0x100 .byte = .ok 0x01 ∧ memRead memState .read 0x100 .half = .ok 0x2301 ∧
    memRead memState .fetch 0x100 .word = .ok 0x67452301 ∧
    memRead memState .read 0x100 .double = .ok 0xEFCDAB8967452301 ∧
    memRead memState .read 0x104 .word = .ok 0xEFCDAB89 ∧ memRead memState .read 0x1FFC .word = .ok 0 := by decide

theorem test_mem_access_fault :
    memRead memState .read 0x101 .half = .error (.accessFault .read 0x101 2) ∧
    memRead memState .read 0x102 .word = .error (.accessFault .read 0x102 4) ∧
    memRead memState .read 0x2000 .byte = .error (.accessFault .read 0x2000 1) ∧
    memRead memState .read 0xFFFFFFFFFFFFFFF8 .double = .error (.accessFault .read 0xFFFFFFFFFFFFFFF8 8) ∧
    memWrite memState 0x103 .word 0 = .error (.accessFault .write 0x103 4) ∧
    fetchWord (memState.setPc 0x102) = .error (.accessFault .fetch 0x102 4) := by decide

/-- M11. -/
theorem test_mem_write :
    (memWrite memState 0x100 .half 0xFFFFFFFFFFFFBEEF).map (fun t => t.mem.loadLE 0x100 8) =
      .ok 0xEFCDAB896745BEEF := by decide

/-! ### One step of each instruction -/

/-- `memState` at `pc`, with these register values and the word to fetch. -/
def small (pc : Addr) (w : Word) (rs : List (RegIdx × XWord)) : State :=
  placeWord (rs.foldl (fun s p => s.writeReg p.1 p.2) (memState.setPc pc)) w

/-- The state after one step, if the step answers one. -/
def stepped (s : State) : Option State :=
  match step s with
  | .next t => some t
  | .fault _ | .refused _ => none

/-- The fault that one step answers, if it answers one. -/
def stopped (s : State) : Option Fault :=
  match step s with
  | .fault f => some f
  | .next _ | .refused _ => none

/-- A register and the pc after one step. -/
def result (s : State) (r : RegIdx) : Option (XWord × Addr) := (stepped s).map fun t => (t.x r, t.pc)

/-- The eight bytes from 0x100 and the pc after one step. -/
def stored (s : State) : Option (XWord × Addr) := (stepped s).map fun t => (t.mem.loadLE 0x100 8, t.pc)

theorem test_add_wraps : result (small 0x10 0x00C58533 [(11, -1), (12, 2)]) 10 = some (1, 0x14) := by decide
theorem test_add_x0_discarded : result (small 0x10 0x00B50033 [(10, 3), (11, 4)]) 0 = some (0, 0x14) := by decide
theorem test_sub_wraps : result (small 0x10 0x407302B3 [(6, 0), (7, 1)]) 5 = some (-1, 0x14) := by decide
theorem test_sll_low_six : result (small 0x10 0x013914B3 [(18, 1), (19, 0x7F)]) 9 = some (0x8000000000000000, 0x14) := by decide
theorem test_slt_signed : result (small 0x10 0x00B02533 [(11, -1)]) 10 = some (0, 0x14) := by decide
theorem test_sltu_unsigned : result (small 0x10 0x00B03533 [(11, -1)]) 10 = some (1, 0x14) := by decide
theorem test_xor : result (small 0x10 0x01EECE33 [(29, 0xF0F0), (30, 0xFF00)]) 28 = some (0x0FF0, 0x14) := by decide
theorem test_srl_logical :
    result (small 0x10 0x00F756B3 [(14, 0x8000000000000000), (15, 0x41)]) 13 = some (0x4000000000000000, 0x14) := by decide
theorem test_sra_arithmetic :
    result (small 0x10 0x4148D833 [(17, 0x8000000000000000), (20, 4)]) 16 = some (0xF800000000000000, 0x14) := by decide
theorem test_or : result (small 0x10 0x017B6AB3 [(22, 0xF0F0), (23, 0xFF00)]) 21 = some (0xFFF0, 0x14) := by decide
theorem test_and : result (small 0x10 0x003170B3 [(2, 0xF0F0), (3, 0xFF00)]) 1 = some (0xF000, 0x14) := by decide
/-- P3: `0x7FFFFFFF + 1` in 32 bits. -/
theorem test_addw_sign_extends :
    result (small 0x10 0x00B5053B [(10, 0x7FFFFFFF), (11, 1)]) 10 = some (0xFFFFFFFF80000000, 0x14) := by decide
theorem test_subw : result (small 0x10 0x405002BB [(5, 1)]) 5 = some (-1, 0x14) := by decide
theorem test_sllw_low_five :
    result (small 0x10 0x01AC9C3B [(25, 1), (26, 0x3F)]) 24 = some (0xFFFFFFFF80000000, 0x14) := by decide
theorem test_srlw_by_zero_sign_extends :
    result (small 0x10 0x01CFDDBB [(31, 0x80000000), (28, 0x20)]) 27 = some (0xFFFFFFFF80000000, 0x14) := by decide
/-- P4. -/
theorem test_sraw_low_word :
    result (small 0x10 0x40E6D63B [(13, 0x0000000080000000), (14, 1)]) 12 = some (0xFFFFFFFFC0000000, 0x14) := by decide

theorem test_addi_negative : result (small 0x10 0xFFF00513 []) 10 = some (-1, 0x14) := by decide
theorem test_slti : result (small 0x10 0x80032293 [(6, -2049)]) 5 = some (1, 0x14) := by decide
/-- `sltiu a0, a1, -1`: the immediate is sign-extended, then compared unsigned (R123). -/
theorem test_sltiu_sign_extended : result (small 0x10 0xFFF5B513 [(11, 5)]) 10 = some (1, 0x14) := by decide
theorem test_xori : result (small 0x10 0xFFF5C513 [(11, 0xF)]) 10 = some (-16, 0x14) := by decide
theorem test_ori : result (small 0x10 0x7FF3E313 [(7, 0x1000)]) 6 = some (0x17FF, 0x14) := by decide
theorem test_andi : result (small 0x10 0x0FF7F793 [(15, 0x1234)]) 15 = some (0x34, 0x14) := by decide
theorem test_slli_63 : result (small 0x10 0x03F51513 [(10, 3)]) 10 = some (0x8000000000000000, 0x14) := by decide
theorem test_srli_32 : result (small 0x10 0x0202D293 [(5, 0x1234567800000000)]) 5 = some (0x12345678, 0x14) := by decide
theorem test_srai : result (small 0x10 0x4015D593 [(11, -2)]) 11 = some (-1, 0x14) := by decide
theorem test_addiw : result (small 0x10 0x0005051B [(10, 0x180000000)]) 10 = some (0xFFFFFFFF80000000, 0x14) := by decide
theorem test_slliw : result (small 0x10 0x01F5951B [(11, 1)]) 10 = some (0xFFFFFFFF80000000, 0x14) := by decide
theorem test_srliw : result (small 0x10 0x0015D51B [(11, -2)]) 10 = some (0x7FFFFFFF, 0x14) := by decide
theorem test_sraiw : result (small 0x10 0x41F5D51B [(11, 0x80000000)]) 10 = some (-1, 0x14) := by decide

theorem test_lb_sign : result (small 0x10 0xFFF10503 [(2, 0x108)]) 10 = some (0xFFFFFFFFFFFFFFEF, 0x14) := by decide
theorem test_lh_sign : result (small 0x10 0x00251583 [(10, 0x104)]) 11 = some (0xFFFFFFFFFFFFEFCD, 0x14) := by decide
theorem test_lw_sign : result (small 0x10 0x80042283 [(8, 0x904)]) 5 = some (0xFFFFFFFFEFCDAB89, 0x14) := by decide
theorem test_ld : result (small 0x10 0x00813083 [(2, 0xF8)]) 1 = some (0xEFCDAB8967452301, 0x14) := by decide
/-- The effective address wraps modulo 2^64. -/
theorem test_lbu_wraps : result (small 0x10 0x7FF6C603 [(13, 0x107 - 2047)]) 12 = some (0xEF, 0x14) := by decide
theorem test_lhu : result (small 0x10 0x0007D703 [(15, 0x106)]) 14 = some (0xEFCD, 0x14) := by decide
theorem test_lwu : result (small 0x10 0x0048E803 [(17, 0x100)]) 16 = some (0xEFCDAB89, 0x14) := by decide
/-- P5. -/
theorem test_lw_misaligned : stopped (small 0x4 0x0002A503 [(5, 1)]) = some (.accessFault .read 1 4) := by decide

theorem test_sb : stored (small 0x10 0xFEA10FA3 [(2, 0x108), (10, 0xAB5A)]) = some (0x5ACDAB8967452301, 0x14) := by
  decide
theorem test_sh : stored (small 0x10 0x00B51123 [(10, 0x100), (11, -0x4111)]) = some (0xEFCDAB89BEEF2301, 0x14) := by
  decide
theorem test_sw :
    stored (small 0x10 0x80542023 [(8, 0x904), (5, 0x1122334455667788)]) = some (0x5566778867452301, 0x14) := by decide
theorem test_sd : stored (small 0x10 0x00113423 [(2, 0xF8), (1, 0x0102030405060708)]) =
    some (0x0102030405060708, 0x14) := by decide
/-- `sd zero, 0(sp)`: the bytes of zero are removed, memory keeps its canonical form; the instruction's own bytes stay
(its fourth is 0). -/
theorem test_sd_of_zero_lists_nothing :
    (stepped (small 0x10 0x00013023 [(2, 0x100)])).map (fun t => t.mem.map Prod.fst) = some [0x10, 0x11, 0x12] := by
  decide
theorem test_sw_misaligned :
    stopped (small 0x10 0x80542023 [(8, 0x902)]) = some (.accessFault .write 0x102 4) := by decide

/-- `jalr ra, -4(t1)` with an odd sum: bit 0 is cleared (R143). -/
theorem test_jalr_clears_bit_zero : result (small 0x10 0xFFC300E7 [(6, 0x1007)]) 1 = some (0x14, 0x1002) := by decide
/-- `jalr ra, 0(ra)`: the target is read before the link is written. -/
theorem test_jalr_same_register : result (small 0x10 0x000080E7 [(1, 0x200)]) 1 = some (0x14, 0x200) := by decide
theorem test_jal_links : result (small 0x10 0x001000EF []) 1 = some (0x14, 0x810) := by decide
theorem test_jal_wraps : result (small 0 0xFFFFF06F []) 0 = some (0, -2) := by decide
/-- A FENCE whose `rd` field holds 10 writes nothing (R144). -/
theorem test_fence_writes_nothing : result (small 0x10 0x0330050F [(10, 7)]) 10 = some (7, 0x14) := by decide
theorem test_ecall :
    (stepped (small 0x10 0x00000073 [])).map (fun t => (t.event, t.pc)) = some (some .ecall, 0x10) := by decide
theorem test_ebreak :
    (stepped (small 0x10 0x00100073 [])).map (fun t => (t.event, t.pc)) = some (some .ebreak, 0x10) := by decide
theorem test_lui : result (small 0x10 0x800002B7 []) 5 = some (0xFFFFFFFF80000000, 0x14) := by decide
theorem test_auipc : result (small 0x1000 0xFFFFF317 []) 6 = some (0, 0x1004) := by decide

theorem test_beq_taken : result (small 0x10 0x00B50463 [(10, 5), (11, 5)]) 0 = some (0, 0x18) := by decide
theorem test_beq_not_taken : result (small 0x10 0x00B50463 [(10, 5), (11, 6)]) 0 = some (0, 0x14) := by decide
theorem test_bne_back : result (small 0x10 0xFE029EE3 [(5, 1)]) 0 = some (0, 0xC) := by decide
theorem test_blt_signed : result (small 0x1000 0x80B54063 [(10, -1), (11, 0)]) 0 = some (0, 0) := by decide
theorem test_blt_not_taken : result (small 0x1000 0x80B54063 [(10, 0), (11, -1)]) 0 = some (0, 0x1004) := by decide
theorem test_bge_equal : result (small 0x10 0x7EB55FE3 [(10, -3), (11, -3)]) 0 = some (0, 0x100E) := by decide
theorem test_bltu_unsigned : result (small 0x10 0x0124E0E3 [(9, 0), (18, -1)]) 0 = some (0, 0x810) := by decide
theorem test_bgeu_equal : result (small 0x10 0xFEA07FE3 [(10, 0)]) 0 = some (0, 0xE) := by decide
theorem test_bgeu_not_taken : result (small 0x10 0xFEA07FE3 [(10, 1)]) 0 = some (0, 0x14) := by decide

/-- I11: an executed R4 class ends the run with its own word. -/
theorem test_r4_ends_the_run :
    [0x203170C3, 0x203170C7, 0x203170CB, 0x203170CF].map (fun w => stopped (State.reset.withFetchWord 32 w)) =
      [some (.unsupported 0x203170C3), some (.unsupported 0x203170C7), some (.unsupported 0x203170CB),
        some (.unsupported 0x203170CF)] := by decide

/-- P6. -/
theorem test_unsupported_word : stopped (small 0x4 0x02A50533 [(10, 7)]) = some (.unsupported 0x02A50533) := by decide

theorem test_with_fetch_word : result (State.reset.withFetchWord 32 0xFFF00513) 10 = some (-1, 4) := by decide

/-- Reset with nothing placed: the word 0 is fetched, which no row matches (log 11). -/
theorem test_reset_alone : stopped State.reset = some (.unsupported 0) := by decide

/-! ### Assembly and pseudo-instructions, R89 and R90 -/

theorem test_asm_text :
    asmText (.sub 5 6 7) = "sub t0, t1, t2" ∧ asmText (.lw 5 8 (-2048)) = "lw t0, -2048(s0)" ∧
    asmText (.sb 2 10 (-1)) = "sb a0, -1(sp)" ∧ asmText (.bne 5 0 (-4)) = "bne t0, zero, -4" ∧
    asmText (.srli 5 5 32) = "srli t0, t0, 32" ∧ asmText (.fence 0 3 3 0 0) = "fence rw, rw" := by decide

/-- `li a0, 0x12345FFF`: hi20 is rounded up because lo12 is negative (R90). -/
theorem test_li_rounds_up : (Pseudo.liWide 10 0x12345FFF).expand = [.lui 10 0x12346, .addiw 10 10 (-1)] := by decide

/-- The rows of R90's table in its order, each with operands of its own, from its expansion column. -/
theorem test_pseudo_table :
    [Pseudo.nop, .liSmall 5 (-7), .mv 5 6, .not 5 6, .neg 5 6, .negw 5 6, .sextw 5 6].map Pseudo.expand =
      [[.addi 0 0 0], [.addi 5 0 (-7)], [.addi 5 6 0], [.xori 5 6 (-1)], [.sub 5 0 6], [.subw 5 0 6],
        [.addiw 5 6 0]] ∧
    [Pseudo.seqz 5 6, .snez 5 6, .sltz 5 6, .sgtz 5 6].map Pseudo.expand =
      [[.sltiu 5 6 1], [.sltu 5 0 6], [.slt 5 6 0], [.slt 5 0 6]] ∧
    [Pseudo.beqz 6 8, .bnez 6 8, .blez 6 8, .bgez 6 8, .bltz 6 8, .bgtz 6 8].map Pseudo.expand =
      [[.beq 6 0 8], [.bne 6 0 8], [.bge 0 6 8], [.bge 6 0 8], [.blt 6 0 8], [.blt 0 6 8]] ∧
    [Pseudo.bgt 6 7 8, .ble 6 7 8, .bgtu 6 7 8, .bleu 6 7 8].map Pseudo.expand =
      [[.blt 7 6 8], [.bge 7 6 8], [.bltu 7 6 8], [.bgeu 7 6 8]] ∧
    [Pseudo.j 8, .jalLink 8, .jr 6, .jalrLink 6, .ret, .fence].map Pseudo.expand =
      [[.jal 0 8], [.jal 1 8], [.jalr 0 6 0], [.jalr 1 6 0], [.jalr 0 1 0], [.fence 0 15 15 0 0]] := by decide

/-- `call`, `tail` and `la` of an offset 0x12345FFF: hi20 and lo12 as in `li`. -/
theorem test_pseudo_symbols :
    [Pseudo.call 0x12345FFF, .tail 0x12345FFF, .la 5 0x12345FFF].map Pseudo.expand =
      [[.auipc 1 0x12346, .jalr 1 1 (-1)], [.auipc 6 0x12346, .jalr 0 6 (-1)],
        [.auipc 5 0x12346, .addi 5 5 (-1)]] := by decide

/-! ### Witnesses: concrete values that meet the hypotheses of each statement -/

/-- An access of `n` bytes at the top of a 2^64-byte memory, and at the top of 0x2000 bytes. -/
theorem witness_admitted_at_the_top :
    Admitted State.reset 0xFFFFFFFFFFFFFFFF 1 ∧ Admitted State.reset 0xFFFFFFFFFFFFFFFE 2 ∧
    Admitted State.reset 0xFFFFFFFFFFFFFFFC 4 ∧ Admitted State.reset 0xFFFFFFFFFFFFFFF8 8 ∧
    Admitted memState 0x1FFF 1 ∧ Admitted memState 0x1FFE 2 ∧ Admitted memState 0x1FFC 4 ∧
    Admitted memState 0x1FF8 8 := by
  unfold Admitted
  decide

/-- The nearest accesses that are not admitted: the next aligned one, and a misaligned one. -/
theorem witness_not_admitted_past_the_top :
    ¬ Admitted memState 0x2000 1 ∧ ¬ Admitted memState 0x2000 2 ∧ ¬ Admitted memState 0x2000 4 ∧
    ¬ Admitted memState 0x2000 8 ∧ ¬ Admitted memState 0x101 2 ∧ ¬ Admitted memState 0x102 4 ∧
    ¬ Admitted memState 0x104 8 := by
  unfold Admitted
  decide

/-- DecodeOfEncodeIsTheInstruction: the least and greatest offsets, and an R4 class. -/
theorem witness_wf :
    (Instr.beq 31 0 0x1000).wf false = true ∧ (Instr.bgeu 0 31 0x0FFE).wf false = true ∧
    (Instr.jal 31 0x100000).wf false = true ∧ (Instr.jal 0 0x0FFFFE).wf false = true ∧
    (Instr.r4Nmadd 31 31 31 31 3 7).wf true = true := by decide

/-- EncodeOfDecodeIsTheWord. -/
theorem witness_decodes : decode false 0xFFFFFFE3 = some (.bgeu 31 31 (-2)) := by decide

/-- NoTwoRowsMatchOneWord and the first clause of UnsupportedExactlyWhenNoRowMatches: the first and the last row. -/
theorem witness_row_matches :
    ((⟨.add, .R, 0x00000033, 0xFE00707F⟩ : Row) ∈ table ∧ (0x00C58533 : Word) &&& 0xFE00707F = 0x00000033) ∧
    (⟨.r4Nmadd, .R4, 0x0000004F, 0x0000007F⟩ : Row) ∈ table ∧ (0x203170CF : Word) &&& 0x0000007F = 0x0000004F :=
  ⟨by decide, List.mem_of_getElem? (i := 55) rfl, by decide⟩

/-- SelectedBundleFollowsTheFormat, each format with an immediate and one without. -/
theorem witness_formats :
    [0xFFF00513, 0x00113423, 0x00B50463, 0x12345537, 0x001000EF].map (fun w => (idec false w).fmt) =
      [.I, .S, .B, .U, .J] ∧ (idec false 0x00C58533).immValid = false := by decide

/-- SupportedWordsHaveTheirRowsFormat, both clauses. -/
theorem witness_format_none :
    (idec false 0x0000000B).fmt = .NONE ∧ (idec false 0x00C58533).instr = some .add := by decide

/-- RawFieldsAreIndependentAndRoundTrip: words that agree in one window alone, each window at all ones. -/
theorem witness_words_agree_in_a_window :
    ([0x0000007F, 0x00000F80, 0x00007000, 0x000F8000, 0x01F00000, 0xFE000000, 0x03F00000, 0xFC000000, 0xFFF00000,
        0xF0000000, 0x0F000000, 0x00F00000] : List Word).all
      (fun mask => (0xFFFFFFFF &&& mask) == (mask &&& mask) && 0xFFFFFFFF != mask) = true := by decide

/-- R4OpcodesNeedHasR4: the four opcodes. -/
theorem witness_r4_opcodes :
    win 0x203170C3 0 7 ∈ [0x43, 0x47, 0x4B, 0x4F] ∧ win 0xFFFFFFC7 0 7 ∈ [0x43, 0x47, 0x4B, 0x4F] ∧
    win 0x0000004B 0 7 ∈ [0x43, 0x47, 0x4B, 0x4F] ∧ win 0x0000004F 0 7 ∈ [0x43, 0x47, 0x4B, 0x4F] := by decide

/-- PortsDeliverTheSelectedRegisters: both ports at index 31, and at index 0. -/
theorem witness_ports_at_the_ends :
    (rps (idec false 0x01FF8533) countRegs).aIdx.toNat = (31 : Fin 32).val ∧
    (rps (idec false 0x01FF8533) countRegs).bIdx.toNat = (31 : Fin 32).val ∧
    (rps (idec false 0x00000533) countRegs).aIdx.toNat = (0 : Fin 32).val ∧
    (rps (idec false 0x00000533) countRegs).bIdx.toNat = (0 : Fin 32).val := by decide

/-- PortEnablesFollowTheFormat: both ports disabled. -/
theorem witness_ports_disabled :
    (rps (idec false 0x12345537) countRegs).aEn = false ∧ (rps (idec false 0x12345537) countRegs).bEn = false := by
  decide

/-- BlockStepCommitsTheWritePort and RegisterZeroIsHardwired: an index other than 0. -/
theorem witness_index_not_zero : (31 : RegIdx) ≠ 0 := by decide

/-- RegisterReadsItsLastWrite: a write to x31, later steps that write another register, x0 or nothing; a write to x0. -/
theorem witness_later_writes_elsewhere :
    let inp : BlockInput := { word := 0, we := true, wa := 31, wd := 5 }
    let later : List BlockInput := [⟨0, true, 1, 6⟩, ⟨0, true, 0, 7⟩, ⟨0, false, 31, 8⟩]
    inp.we = true ∧ (31 : RegIdx) ≠ 0 ∧ inp.wa = 31 ∧ (∀ j ∈ later, ¬ (j.we = true ∧ j.wa = 31)) ∧
    ({ inp with wa := 0 }).wa = 0 ∧ (1 : RegIdx) ≠ inp.wa := by decide

/-- MemWriteChangesExactlyItsBytes, StoreResults: memory in canonical form beside an access at its end. -/
theorem witness_wf_and_admitted : memState.mem.wf ∧ Admitted memState 0x1FF8 Width.double.bytes := by
  unfold Admitted
  decide

/-- ReadReturnsTheNewestBytes: a write at the top of memory, the last byte of it, and the reads on both sides of one. -/
theorem witness_reads_after_a_write :
    memState.mem.wf ∧ (∃ t, memWrite memState 0x1FF8 .double 5 = .ok t) ∧
    ((0x1FF8 : Addr).toNat ≤ (0x1FFF : Addr).toNat ∧
      (0x1FFF : Addr).toNat + Width.byte.bytes ≤ (0x1FF8 : Addr).toNat + Width.double.bytes ∧
      (0x1FFF : Addr).toNat % Width.byte.bytes = 0) ∧
    (∃ t, memWrite memState 0x104 .word 5 = .ok t) ∧
    (0x103 : Addr).toNat + Width.byte.bytes ≤ (0x104 : Addr).toNat ∧
    (0x104 : Addr).toNat + Width.word.bytes ≤ (0x108 : Addr).toNat :=
  ⟨by decide, ⟨_, rfl⟩, by decide, ⟨_, rfl⟩, by decide, by decide⟩

/-- CellBehindX0IsNeverUpdated, NoStepChangesTheParameters, PcIsEvenAfterEveryStep, StepKeepsTheInvariant: a step that
completes from a state that meets the invariant, a store to the last doubleword. -/
theorem witness_step_completes :
    let s := small 0x10 0x7E013FA3 [(2, 0x17F9)]
    s.Inv ∧ (stepped s).isSome = true := by decide

/-- OnlyTheDecodedDestinationChanges: a step that changes a register. -/
theorem witness_register_changes :
    let s := small 0x10 0xFFF00513 []
    (stepped s).isSome = true ∧ (stepped s).map (fun t => t.x 10) ≠ some (s.x 10) := by decide

/-- OnlyStoresChangeMemory: a step that changes a byte. -/
theorem witness_byte_changes :
    let s := small 0x10 0xFEA10FA3 [(2, 0x108), (10, 0x5A)]
    s.mem.wf ∧ (stepped s).isSome = true ∧ (stepped s).map (fun t => t.byteAt 0x107) ≠ some (s.byteAt 0x107) := by
  decide

/-- StepRunsTheDecodedInstruction: the last word of memory. -/
theorem witness_word_decodes_at_the_top :
    let s := small 0x1FFC 0x00C58533 []
    s.event = none ∧ Admitted s s.pc 4 ∧ (0x00C58533 : Word).toNat = s.bytesValue s.pc.toNat 4 ∧
    decode s.params.hasR4 0x00C58533 = some (.add 10 11 12) := by
  unfold Admitted
  decide

/-- StepConditionsInPriorityOrder and StepStopsOnlyForTheNamedConditions: a fetch fault, just past memory. -/
theorem witness_fetch_fault :
    let s := memState.setPc 0x2000
    s.event = none ∧ ¬ Admitted s s.pc 4 ∧ stopped s = some (.accessFault .fetch 0x2000 4) := by
  unfold Admitted
  decide

/-- The same statements: a word that no row matches. -/
theorem witness_unsupported :
    let s := small 0x10 0x02A50533 []
    s.event = none ∧ Admitted s s.pc 4 ∧ (0x02A50533 : Word).toNat = s.bytesValue s.pc.toNat 4 ∧
    (idec s.params.hasR4 0x02A50533).unsupported = true ∧ stopped s = some (.unsupported 0x02A50533) := by
  unfold Admitted
  decide

/-- The same statements: the data access of a load. -/
theorem witness_data_fault :
    let s := small 0x10 0x0002A503 [(5, 1)]
    s.event = none ∧ Admitted s s.pc 4 ∧ (0x0002A503 : Word).toNat = s.bytesValue s.pc.toNat 4 ∧
    decode s.params.hasR4 0x0002A503 = some (.lw 10 5 0) ∧ dataAccess s (.lw 10 5 0) = some (.read, 1, 4) ∧
    ¬ Admitted s 1 4 ∧ stopped s = some (.accessFault .read 1 4) := by
  unfold Admitted
  decide

/-- EndedRunTakesNoFurtherStep. -/
theorem witness_ended : ({ memState with event := some Event.ebreak } : State).event = some .ebreak := rfl

/-- StepReadsRegistersOnlyThroughThePorts: two states that differ in a register the instruction does not read. -/
theorem witness_same_ports :
    let s := small 0x10 0xFFF5C513 [(11, 0xF), (12, 1)]
    let t := small 0x10 0xFFF5C513 [(11, 0xF), (12, 2)]
    s ≠ t ∧ s.event = t.event ∧ s.pc = t.pc ∧ s.mem = t.mem ∧ s.params = t.params ∧
    fetchWord s = .ok 0xFFF5C513 ∧
    rps (idec s.params.hasR4 0xFFF5C513) s.regs = rps (idec s.params.hasR4 0xFFF5C513) t.regs := by decide

/-- FetchSeesTheStoredWord. -/
theorem witness_sw_completes : memState.mem.wf ∧ ∃ t, exec (.sw 0 1 0x7FC) memState = .next t := ⟨by decide, _, rfl⟩

/-- LaunchStateIsTheLaunchTuple: distinct addresses, one of them the last of memory. -/
theorem witness_launch :
    let cells : List Host.Cell := [(0x1FFF, 7), (0, 0x13)]
    (cells.map Prod.fst).Nodup ∧ ∀ c ∈ cells, c.1 < 0x2000 := by decide

/-- RunEndsAsTheEndTableSays: a run that ends with each event, and one that ends with a fault. -/
theorem witness_runs :
    (memState.event = none ∧ (small 0x10 0x00000073 []).event = none) ∧
    (∃ t, run 1 (small 0x10 0x00000073 []) = .ended .ecall t) ∧
    (∃ t, run 1 (small 0x10 0x00100073 []) = .ended .ebreak t) ∧
    run 1 (memState.setPc 0x2000) = .faulted (.accessFault .fetch 0x2000 4) (memState.setPc 0x2000) :=
  ⟨by decide, ⟨_, rfl⟩, ⟨_, rfl⟩, by decide⟩

/-- SelfJumpNeverEnds. -/
theorem witness_self_jump :
    (small 0x10 0x0000006F []).event = none ∧ fetchWord (small 0x10 0x0000006F []) = .ok 0x0000006F := by decide

/-- LoadResults: for each width, an address at the end of memory. -/
theorem witness_load_addresses :
    let s := memState.writeReg 2 0x2000
    (((0x1FFF : Addr).toNat : Int) = ((s.x 2).toNat + (-1 : BitVec 12).toInt) % 2 ^ 64 ∧ Admitted s 0x1FFF 1) ∧
    (((0x1FFE : Addr).toNat : Int) = ((s.x 2).toNat + (-2 : BitVec 12).toInt) % 2 ^ 64 ∧ Admitted s 0x1FFE 2) ∧
    (((0x1FFC : Addr).toNat : Int) = ((s.x 2).toNat + (-4 : BitVec 12).toInt) % 2 ^ 64 ∧ Admitted s 0x1FFC 4) ∧
    (((0x1FF8 : Addr).toNat : Int) = ((s.x 2).toNat + (-8 : BitVec 12).toInt) % 2 ^ 64 ∧ Admitted s 0x1FF8 8) := by
  unfold Admitted
  decide

/-- StoreResults: the same, through the meaning's own address. -/
theorem witness_store_addresses :
    let s := memState.writeReg 2 0x2000
    s.mem.wf ∧ Admitted s (effAddr s 2 (-1)) 1 ∧ Admitted s (effAddr s 2 (-2)) 2 ∧
    Admitted s (effAddr s 2 (-4)) 4 ∧ Admitted s (effAddr s 2 (-8)) 8 := by
  unfold Admitted
  decide

/-- LoadsAndStoresFaultWhenNotAdmitted: one address, just past memory, that no width admits. -/
theorem witness_fault_address :
    let s := memState.writeReg 2 0x2001
    ((0x2000 : Addr).toNat : Int) = ((s.x 2).toNat + (-1 : BitVec 12).toInt) % 2 ^ 64 ∧ ¬ Admitted s 0x2000 1 ∧
    ¬ Admitted s 0x2000 2 ∧ ¬ Admitted s 0x2000 4 ∧ ¬ Admitted s 0x2000 8 := by
  unfold Admitted
  decide

/-- PseudoSymbolExpansionsReachTheSymbol: the last offset reached as itself, and the first reached as 2^32 less. -/
theorem witness_symbol_offsets :
    (0x7FFFF7FF : Int) = (if (0x7FFFF7FF : BitVec 32).toInt < 2 ^ 31 - 2 ^ 11 then (0x7FFFF7FF : BitVec 32).toInt
      else (0x7FFFF7FF : BitVec 32).toInt - 2 ^ 32) ∧
    (-0x80000800 : Int) = (if (0x7FFFF800 : BitVec 32).toInt < 2 ^ 31 - 2 ^ 11 then (0x7FFFF800 : BitVec 32).toInt
      else (0x7FFFF800 : BitVec 32).toInt - 2 ^ 32) := by decide

/-- PseudoExpansionsDoWhatTheTableSays, its last clause: even offsets at the ends of their ranges. -/
theorem witness_even_offsets :
    (0x1000 : BitVec 13).getLsbD 0 = false ∧ (0x0FFFFE : BitVec 21).getLsbD 0 = false ∧
    Pseudo.j 0x0FFFFE ∈ [Pseudo.j 0x0FFFFE] := by decide

end Sys2Proof.Tests
end

section
/-! PROOFS. The architectural registers (10_state.md R22): x0 is hardwired, every other register holds its last write. -/

namespace Sys2Proof.Machine

/-- A write to x0 leaves the whole state as it was (R22, R205): the port discards it. -/
@[simp] theorem writeReg_zero (s : State) (v : XWord) : s.writeReg 0#5 v = s :=
  congrArg (fun X => { s with regs := X }) (rfWrite_discard s.regs v fun h => h.2 rfl)

/-- A register other than x0 reads the value just written to it (R22). -/
theorem writeReg_x_same (s : State) {r : RegIdx} (v : XWord) (h : r ≠ 0) : (s.writeReg r v).x r = v := by
  rw [writeReg_x, if_neg h, if_pos rfl]

/-- Settles O20: the three clauses are the laws of the register file, read through the state. -/
theorem registerZeroIsHardwired : Obligations.RegisterZeroIsHardwired :=
  ⟨x_zero, writeReg_zero, fun s _ v h => writeReg_x_same s v h⟩

end Sys2Proof.Machine
end

section
/-! PROOFS. Refused memory accesses (20_memory.md R44, R46): which accesses fault, and with which fault. -/

namespace Sys2Proof.Machine

/-- A read faults exactly when it is not admitted, and only with its own AccessFault (R46). -/
theorem memRead_eq_error_iff {s : State} {kind : AccessKind} {a : Addr} {w : Width} {f : Fault} :
    memRead s kind a w = .error f ↔ ¬ Admitted s a w.bytes ∧ f = .accessFault kind a w.bytes := by
  by_cases h : Admitted s a w.bytes
  · simp [memRead_ok h, h]
  · simp [memRead_error h, h, eq_comm]

/-- A write faults exactly when it is not admitted, and only with its own AccessFault (R46). -/
theorem memWrite_eq_error_iff {s : State} {a : Addr} {w : Width} {v : XWord} {f : Fault} :
    memWrite s a w v = .error f ↔ ¬ Admitted s a w.bytes ∧ f = .accessFault .write a w.bytes := by
  by_cases h : Admitted s a w.bytes
  · simp [memWrite_ok h, h]
  · simp [memWrite_error h, h, eq_comm]

/-- Settles O25: the statement's condition is `Admitted` written out, so each half is the law of its access. -/
theorem accessFaultsExactlyWhenNotAdmitted : Obligations.AccessFaultsExactlyWhenNotAdmitted :=
  fun _ _ _ _ _ _ => ⟨memRead_eq_error_iff, memWrite_eq_error_iff⟩

end Sys2Proof.Machine
end

section
/-! PROOFS. The fields of a word as numbers (30_encoding.md R61 to R67, R83): a field is its window, a concatenation is a
sum, and a sign-extended immediate is the signed value of its bits. -/

namespace Sys2Proof
open Machine

/-- A field is the word's window, read as a number (R12, R61). -/
@[simp] theorem bits_toNat (w : Word) (lo len : Nat) : (bits w lo len).toNat = win w lo len := by
  simp only [bits, win, BitVec.extractLsb'_toNat, Nat.shiftRight_eq_div_pow]

/-- The bits on the left of a concatenation count `2 ^ n` times their value, `n` the width of the right part. -/
theorem append_toNat {m n : Nat} (x : BitVec m) (y : BitVec n) : (x ++ y).toNat = x.toNat * 2 ^ n + y.toNat := by
  rw [BitVec.toNat_append, ← Nat.shiftLeft_add_eq_or_of_lt y.isLt, Nat.shiftLeft_eq]

/-- The exact U value: twenty bits above twelve zeros (R66). -/
theorem immU32Of_toNat (w : Word) : (immU32Of w).toNat = win w 12 20 * 2 ^ 12 := by
  simp only [immU32Of, append_toNat, bits_toNat, BitVec.toNat_ofNat, Nat.zero_mod, Nat.add_zero]

/-- A pattern's two's complement value (R15). -/
theorem toInt_eq_sgn {n : Nat} (x : BitVec (n + 1)) : x.toInt = sgn (n + 1) x.toNat := by
  have hlt : 2 * x.toNat < 2 ^ (n + 1) ↔ x.toNat < 2 ^ n := by omega
  simp only [BitVec.toInt_eq_toNat_cond, sgn, hlt, Nat.add_sub_cancel, Nat.cast_pow, Nat.cast_ofNat]

/-- Widening to the 64-bit bus keeps the signed value of a pattern (R71). -/
theorem signExtend_toInt {n : Nat} (hn : n + 1 ≤ 64) (x : BitVec (n + 1)) :
    (x.signExtend 64).toInt = sgn (n + 1) x.toNat := by
  rw [BitVec.toInt_signExtend_of_le hn, toInt_eq_sgn]

/-- The I immediate (R63). -/
theorem immI_toInt (w : Word) : (immI w).toInt = sgn 12 (win w 20 12) := by
  rw [immI, signExtend_toInt (by decide), bits_toNat]

/-- The S immediate (R64). -/
theorem immS_toInt (w : Word) : (immS w).toInt = sgn 12 (win w 25 7 * 2 ^ 5 + win w 7 5) := by
  rw [immS, signExtend_toInt (by decide), append_toNat, bits_toNat, bits_toNat]

/-- The B immediate, its bit 0 always 0 (R65). -/
theorem immB_toInt (w : Word) :
    (immB w).toInt = sgn 13 (win w 31 1 * 2 ^ 12 + win w 7 1 * 2 ^ 11 + win w 25 6 * 2 ^ 5 + win w 8 4 * 2) := by
  rw [immB, signExtend_toInt (by decide)]
  congr 1
  simp only [append_toNat, bits_toNat, BitVec.toNat_ofNat]
  ring

/-- The J immediate, its bit 0 always 0 (R67). -/
theorem immJ_toInt (w : Word) :
    (immJ w).toInt = sgn 21 (win w 31 1 * 2 ^ 20 + win w 12 8 * 2 ^ 12 + win w 20 1 * 2 ^ 11 + win w 21 10 * 2) := by
  rw [immJ, signExtend_toInt (by decide)]
  congr 1
  simp only [append_toNat, bits_toNat, BitVec.toNat_ofNat]
  ring

/-- Settles O6: every raw output of IDEC is a field of the word, whatever its format. -/
theorem rawFieldsAreTheWordsWindows : Obligations.RawFieldsAreTheWordsWindows := by
  intro hasR4 w
  simp only [idec, opcodeOf, rdOf, funct3Of, rs1Of, rs2Of, funct7Of, bits_toNat, immU32Of_toNat, and_self]

/-- Settles O7: the views' fields are fields of the word, and each immediate has its own law. -/
theorem formatViewsAreTheFieldSets : Obligations.FormatViewsAreTheFieldSets := by
  intro w
  simp only [viewR, viewI, viewS, viewB, viewJ, opcodeOf, rdOf, funct3Of, rs1Of, rs2Of, funct7Of, bits_toNat,
    immI_toInt, immS_toInt, immB_toInt, immJ_toInt, and_self]

/-- A field does not change with the bits outside a mask that covers its window (R92). -/
theorem bits_eq_of_and_eq {w v mask : Word} {lo len : Nat} (hcover : bits mask lo len = BitVec.allOnes len)
    (h : w &&& mask = v &&& mask) : bits w lo len = bits v lo len := by
  have hmask (u : Word) : bits (u &&& mask) lo len = bits u lo len := by
    rw [bits, BitVec.extractLsb'_and]
    exact (congrArg (_ &&& ·) hcover).trans BitVec.and_allOnes
  rw [← hmask w, h, hmask v]

/-- The opcode is `w & 0x7F` (R92). -/
theorem opcodeOf_setWidth (w : Word) : (opcodeOf w).setWidth 32 = w &&& 0x7F := by
  apply BitVec.eq_of_toNat_eq
  have hmask : (w &&& 0x7F).toNat = w.toNat % 2 ^ 7 := Nat.and_two_pow_sub_one_eq_mod w.toNat 7
  have hop : (opcodeOf w).toNat = w.toNat % 2 ^ 7 := by rw [opcodeOf, bits_toNat, win, pow_zero, Nat.div_one]
  rw [hmask, BitVec.toNat_setWidth, hop]
  omega

/-- The R view of a word assembled from six fields gives the six fields back (R62, R92). -/
theorem viewR_encodeR (f7 : BitVec 7) (rs2 rs1 : RegIdx) (f3 : BitVec 3) (rd : RegIdx) (op : BitVec 7) :
    viewR (encodeR f7 rs2 rs1 f3 rd op) =
      { opcode := op, rd := rd, funct3 := f3, rs1 := rs1, rs2 := rs2, funct7 := f7 } := by
  have hnat : (encodeR f7 rs2 rs1 f3 rd op).toNat =
      ((((f7.toNat * 2 ^ 5 + rs2.toNat) * 2 ^ 5 + rs1.toNat) * 2 ^ 3 + f3.toNat) * 2 ^ 5 + rd.toNat) * 2 ^ 7 +
        op.toNat := by
    simp only [encodeR, append_toNat]
  have hfield {lo len : Nat} (x : BitVec len) (h : (encodeR f7 rs2 rs1 f3 rd op).toNat / 2 ^ lo % 2 ^ len = x.toNat) :
      bits (encodeR f7 rs2 rs1 f3 rd op) lo len = x := BitVec.eq_of_toNat_eq ((bits_toNat ..).trans h)
  rw [viewR, opcodeOf, rdOf, funct3Of, rs1Of, rs2Of, funct7Of, hfield op, hfield rd, hfield f3, hfield rs1, hfield rs2,
    hfield f7]
  all_goals omega

/-- Settles O14: the masks cover their windows, and the R view undoes the assembly. -/
theorem rawFieldsAreIndependentAndRoundTrip : Obligations.RawFieldsAreIndependentAndRoundTrip := by
  refine ⟨fun hasR4 w => ⟨opcodeOf_setWidth w, bits_toNat w 7 5, bits_toNat w 15 5, bits_toNat w 20 5⟩,
    fun hasR4 w v => ?_, fun op rd rs1 rs2 f3 f7 => viewR_encodeR f7 rs2 rs1 f3 rd op⟩
  have hwindow (mask : Word) (lo len : Nat) (hcover : bits mask lo len = BitVec.allOnes len)
      (h : w &&& mask = v &&& mask) : bits w lo len = bits v lo len := bits_eq_of_and_eq hcover h
  exact ⟨hwindow _ 0 7 (by decide), hwindow _ 7 5 (by decide), hwindow _ 12 3 (by decide), hwindow _ 15 5 (by decide),
    fun h => ⟨hwindow _ 20 5 (by decide) h, hwindow _ 20 5 (by decide) h⟩, hwindow _ 25 7 (by decide),
    hwindow _ 20 6 (by decide), hwindow _ 26 6 (by decide), hwindow _ 20 12 (by decide), hwindow _ 28 4 (by decide),
    hwindow _ 24 4 (by decide), hwindow _ 20 4 (by decide)⟩

end Sys2Proof
end

section
/-! PROOFS. The opcode map and what the selected format defines (30_encoding.md R72, R75, R79). -/

namespace Sys2Proof
open Machine

/-- The map lists an opcode once (R72). -/
theorem opcodeMap_opcode_injective :
    ∀ r ∈ opcodeMap, ∀ q ∈ opcodeMap, r.opcode = q.opcode → r = q := by decide

/-- Looking an opcode of the map up finds its row. -/
theorem opcodeMap_find? {r : OpcodeRow} (hr : r ∈ opcodeMap) :
    opcodeMap.find? (fun q => q.opcode == r.opcode) = some r := by
  have hsome : (opcodeMap.find? (fun q => q.opcode == r.opcode)).isSome = true :=
    List.find?_isSome.mpr ⟨r, hr, beq_self_eq_true _⟩
  obtain ⟨q, hq⟩ := Option.isSome_iff_exists.mp hsome
  have hop : q.opcode = r.opcode := by simpa using List.find?_some hq
  rw [hq, opcodeMap_opcode_injective q (List.mem_of_find?_eq_some hq) r hr hop]

/-- The format is `f` exactly when the map says so, and R4 only under `HAS_R4` (R72). -/
theorem formatOf_eq_iff {hasR4 : Bool} {op : BitVec 7} {f : Format} (hf : f ≠ .NONE) :
    formatOf hasR4 op = f ↔ ⟨op, f⟩ ∈ opcodeMap ∧ (f = .R4 → hasR4 = true) := by
  constructor
  · intro h
    unfold formatOf at h
    split at h
    next r hr =>
      have hop : r.opcode = op := by simpa using List.find?_some hr
      split at h
      next => exact absurd h.symm hf
      next hcounts =>
        subst hop h
        exact ⟨List.mem_of_find?_eq_some hr, fun h4 => by simpa [h4] using hcounts⟩
    next => exact absurd h.symm hf
  · rintro ⟨hmem, hcounts⟩
    have hnot : ¬ (f = .R4 ∧ hasR4 = false) := fun ⟨h4, hno⟩ => by simp [hcounts h4] at hno
    simp only [formatOf, opcodeMap_find? hmem, if_neg hnot]

/-- Settles O11: each clause reads its rows off the map. -/
theorem formatOfFollowsTheOpcodeMap : Obligations.FormatOfFollowsTheOpcodeMap := by
  intro hasR4 w
  have hfmt (f : Format) (hf : f ≠ .NONE) : (idec hasR4 w).fmt = f ↔
      ⟨opcodeOf w, f⟩ ∈ opcodeMap ∧ (f = .R4 → hasR4 = true) := formatOf_eq_iff hf
  have hop (op : BitVec 7) : opcodeOf w = op ↔ win w 0 7 = op.toNat := by
    rw [← BitVec.toNat_inj, opcodeOf, bits_toNat]
  rw [hfmt .R (by decide), hfmt .I (by decide), hfmt .S (by decide), hfmt .B (by decide), hfmt .U (by decide),
    hfmt .J (by decide), hfmt .R4 (by decide)]
  simp [opcodeMap, hop, and_comm]

/-! The valid bits of R75, as the formats that set them. -/

theorem Format.rdValid_iff (f : Format) : f.rdValid = true ↔ f ∈ [.R, .I, .U, .J] := by cases f <;> decide

theorem Format.rs1Valid_iff (f : Format) : f.rs1Valid = true ↔ f ∈ [.R, .I, .S, .B] := by cases f <;> decide

theorem Format.rs2Valid_iff (f : Format) : f.rs2Valid = true ↔ f ∈ [.R, .S, .B] := by cases f <;> decide

theorem Format.funct3Valid_iff (f : Format) : f.funct3Valid = true ↔ f ∈ [.R, .I, .S, .B, .R4] := by cases f <;> decide

theorem Format.funct7Valid_iff (f : Format) : f.funct7Valid = true ↔ f = .R := by cases f <;> decide

theorem Format.immValid_iff (f : Format) : f.immValid = true ↔ f ∈ [.I, .S, .B, .U, .J] := by cases f <;> decide

theorem Format.r4Valid_iff (f : Format) : f.r4Valid = true ↔ f = .R4 := by cases f <;> decide

/-- A format without an immediate selects 0 (R79). -/
theorem selectImm_eq_zero {f : Format} (h : f.immValid = false) (w : Word) : selectImm f w = 0 := by
  cases f with
  | R | R4 | NONE => rfl
  | I | S | B | U | J => cases h

/-- Settles O12: the valid bits and the immediate are functions of the format alone. -/
theorem selectedBundleFollowsTheFormat : Obligations.SelectedBundleFollowsTheFormat := by
  intro hasR4 w
  have himm {f : Format} (h : (idec hasR4 w).fmt = f) : (idec hasR4 w).imm = selectImm f w :=
    congrArg (selectImm · w) h
  exact ⟨Format.rdValid_iff _, Format.rs1Valid_iff _, Format.rs2Valid_iff _, Format.funct3Valid_iff _,
    Format.funct7Valid_iff _, Format.immValid_iff _, Format.r4Valid_iff _, himm, himm, himm, himm, himm,
    fun h => selectImm_eq_zero h w⟩

end Sys2Proof
end

section
/-! PROOFS. Identification (30_encoding.md R80, R81): one row at most matches a word, so the mnemonic is its own. -/

namespace Sys2Proof

/-- Two different rows ask for different bits somewhere under both their masks. -/
theorem table_row_eq_of_values_agree :
    ∀ r ∈ table, ∀ q ∈ table, r.value &&& q.mask = q.value &&& r.mask → r = q := by decide

/-- "No two rows match the same word" (R80). -/
theorem row_eq_of_matchesWord {w : Word} {r q : Row} (hr : r ∈ table) (hq : q ∈ table)
    (hrw : r.matchesWord w = true) (hqw : q.matchesWord w = true) : r = q := by
  refine table_row_eq_of_values_agree r hr q hq ?_
  rw [← (matchesWord_iff r w).mp hrw, ← (matchesWord_iff q w).mp hqw, BitVec.and_assoc, BitVec.and_assoc,
    BitVec.and_comm r.mask]

/-- A row counts unless it is an R4 row without `HAS_R4` (R80). -/
theorem counts_iff (hasR4 : Bool) (r : Row) : r.counts hasR4 = true ↔ (r.fmt = .R4 → hasR4 = true) := by
  unfold Row.counts
  by_cases h4 : r.fmt = .R4 <;> simp [h4]

/-- A matching row that counts gives a word its mnemonic (R80). -/
theorem identify_eq_of_row {hasR4 : Bool} {w : Word} {r : Row} (hr : r ∈ table) (hc : r.counts hasR4 = true)
    (hm : r.matchesWord w = true) : identify hasR4 w = some r.mnemonic := by
  obtain ⟨m, hsome⟩ := Option.isSome_iff_exists.mp (identify_isSome hr hc hm)
  obtain ⟨q, hq, rfl, -, hqw⟩ := identify_row hsome
  rw [hsome, row_eq_of_matchesWord hq hr hqw hm]

/-- No mnemonic exactly when no counting row matches (R81). -/
theorem identify_eq_none_iff {hasR4 : Bool} {w : Word} :
    identify hasR4 w = none ↔ ∀ r ∈ table, r.counts hasR4 = true → ¬ r.matchesWord w = true := by
  constructor
  · intro hnone r hr hc hm
    simp [identify_eq_of_row hr hc hm] at hnone
  · intro hno
    refine Option.eq_none_iff_forall_ne_some.mpr fun m hm => ?_
    obtain ⟨r, hr, -, hc, hrw⟩ := identify_row hm
    exact hno r hr hc hrw

/-- Settles O5: `instr` is the identification and `unsupported` says that it is none. -/
theorem unsupportedExactlyWhenNoRowMatches : Obligations.UnsupportedExactlyWhenNoRowMatches := by
  intro hasR4 w
  have hnone : (idec hasR4 w).unsupported = true ↔ (idec hasR4 w).instr = none := Option.isNone_iff_eq_none
  refine ⟨fun r hr hc hm => ?_, ?_, hnone⟩
  · have hid := identify_eq_of_row hr ((counts_iff hasR4 r).mpr hc) ((matchesWord_iff r w).mpr hm)
    exact ⟨hid, congrArg Option.isNone hid⟩
  · have hno := identify_eq_none_iff (hasR4 := hasR4) (w := w)
    simp only [counts_iff, matchesWord_iff] at hno
    exact hnone.trans hno

end Sys2Proof
end

section
/-! PROOFS. The optional R4 classes (47_r4_type.md R190 to R194): a row fixes the opcode, the opcode fixes the format, and
without `HAS_R4` the four opcodes have neither. -/

namespace Sys2Proof
open Machine

/-- Every row's mask covers the opcode, and its opcode is listed in the map under its format. -/
theorem table_row_fixes_opcode :
    ∀ r ∈ table, bits r.mask 0 7 = BitVec.allOnes 7 ∧ ⟨opcodeOf r.value, r.fmt⟩ ∈ opcodeMap ∧ r.fmt ≠ .NONE := by decide

/-- A word has the format of the counting row it matches (R72, R80). -/
theorem formatOf_eq_of_row {hasR4 : Bool} {w : Word} {r : Row} (hr : r ∈ table) (hc : r.counts hasR4 = true)
    (hm : r.matchesWord w = true) : formatOf hasR4 (opcodeOf w) = r.fmt := by
  obtain ⟨hcover, hmap, hne⟩ := table_row_fixes_opcode r hr
  have hmask : w &&& r.mask = r.value &&& r.mask := by
    rw [← (matchesWord_iff r w).mp hm, BitVec.and_assoc, BitVec.and_self]
  have hop : opcodeOf w = opcodeOf r.value := bits_eq_of_and_eq hcover hmask
  rw [hop]
  exact (formatOf_eq_iff hne).mpr ⟨hmap, (counts_iff hasR4 r).mp hc⟩

/-- A word whose opcode has no format has no mnemonic (R82). -/
theorem identify_eq_none_of_formatOf {hasR4 : Bool} {w : Word} (h : formatOf hasR4 (opcodeOf w) = .NONE) :
    identify hasR4 w = none := by
  refine identify_eq_none_iff.mpr fun r hr hc hm => ?_
  obtain ⟨-, -, hne⟩ := table_row_fixes_opcode r hr
  exact hne ((formatOf_eq_of_row hr hc hm).symm.trans h)

/-- Without `HAS_R4` an R4 opcode has no format (R72). -/
theorem formatOf_false_of_r4 {op : BitVec 7} (h : ⟨op, .R4⟩ ∈ opcodeMap) : formatOf false op = .NONE := by
  simp only [formatOf, opcodeMap_find? h, and_self, if_true]

/-- The R4 rows are class rows: they ask for the opcode and nothing else (R190). -/
theorem rowsR4_mask : ∀ r ∈ rowsR4, r.mask = 0x7F := by decide

/-- With `HAS_R4`, every word of a class's opcode is identified as the class (R190 to R194). -/
theorem identify_r4_class {w : Word} {r : Row} (hr : r ∈ rowsR4) (h : win w 0 7 = r.value.toNat) :
    identify true w = some r.mnemonic := by
  have hvalue : w &&& r.mask = r.value := by
    rw [rowsR4_mask r hr, ← opcodeOf_setWidth]
    apply BitVec.eq_of_toNat_eq
    rw [BitVec.toNat_setWidth, opcodeOf, bits_toNat, h, Nat.mod_eq_of_lt r.value.isLt]
  exact identify_eq_of_row (List.mem_append_right _ hr) (Bool.true_or _) ((matchesWord_iff r w).mpr hvalue)

/-- When neither source register is valid, both ports are disabled and deliver 0 (R201). -/
theorem rps_disabled {d : Decoded} (h1 : d.rs1Valid = false) (h2 : d.rs2Valid = false) (X : RegFile) :
    rps d X = { aEn := false, aIdx := 0, aData := 0, bEn := false, bIdx := 0, bData := 0 } := by
  rw [rps, h1, h2]
  rfl

/-- Settles O15: with `HAS_R4` everything follows from the format R4 and the class rows, without it from the format
NONE. -/
theorem r4OpcodesNeedHasR4 : Obligations.R4OpcodesNeedHasR4 := by
  intro w X hop
  obtain ⟨-, -, -, -, -, -, hR4⟩ := formatOfFollowsTheOpcodeMap true w
  have hfmt : (idec true w).fmt = .R4 := hR4.mpr ⟨rfl, hop⟩
  have hmap : ⟨opcodeOf w, .R4⟩ ∈ opcodeMap := ((formatOf_eq_iff (by decide)).mp hfmt).1
  have hnone : formatOf false (opcodeOf w) = .NONE := formatOf_false_of_r4 hmap
  have hvalid (valid : Format → Bool) : valid (idec true w).fmt = valid .R4 := congrArg valid hfmt
  have hclass : ∀ r ∈ rowsR4, win w 0 7 = r.value.toNat → (idec true w).instr = some r.mnemonic :=
    fun _ hr => identify_r4_class hr
  have hsupported : (idec true w).unsupported = false := by
    obtain ⟨r, hr, hvalue⟩ : ∃ r ∈ rowsR4, win w 0 7 = r.value.toNat := by simpa [rowsR4] using hop
    exact congrArg Option.isNone (hclass r hr hvalue)
  simp only [rowsR4, List.forall_mem_cons] at hclass
  obtain ⟨hmadd, hmsub, hnmsub, hnmadd, -⟩ := hclass
  exact ⟨⟨hfmt, hsupported, hvalid Format.rdValid, hvalid Format.rs1Valid, hvalid Format.rs2Valid,
    hvalid Format.funct7Valid, hvalid Format.immValid, hvalid Format.funct3Valid, hvalid Format.r4Valid,
    selectImm_eq_zero (hvalid Format.immValid) w, bits_toNat w 7 5, bits_toNat w 15 5, bits_toNat w 20 5,
    bits_toNat w 27 5, bits_toNat w 25 2, bits_toNat w 12 3, hmadd, hmsub, hnmsub, hnmadd,
    rps_disabled (hvalid Format.rs1Valid) (hvalid Format.rs2Valid) X⟩,
    hnone, congrArg Option.isNone (identify_eq_none_of_formatOf hnone)⟩

end Sys2Proof
end

section
/-! PROOFS. The read-port selector and the block step (48_read_port_selector.md R200 to R205): which cell a write changes,
and what a port selects and delivers. -/

namespace Sys2Proof.Machine

/-- The write port changes at most the cell `wa`, and never cell 0 (R205). -/
theorem getElem_rfWrite (X : RegFile) (we : Bool) (wa : RegIdx) (wd : XWord) (k : Fin 32) :
    (rfWrite X we wa wd)[k] = if we = true ∧ wa ≠ 0 ∧ wa.toNat = k.val then wd else X[k] := by
  by_cases hw : we = true ∧ wa ≠ 0
  · rw [rfWrite_commit X wd hw]
    simp only [← and_assoc, and_iff_right hw]
    exact Vector.getElem_set ..
  · rw [rfWrite_discard X wd hw, if_neg fun ⟨hwe, hwa, _⟩ => hw ⟨hwe, hwa⟩]

/-- Settles O18: the registers are the write port's law, a read is the register file's, and each port is `portData` of
the register it selects. -/
theorem blockStepCommitsTheWritePort : Obligations.BlockStepCommitsTheWritePort :=
  fun _ X inp => ⟨rfl, getElem_rfWrite X inp.we inp.wa inp.wd, fun _ => rfRead_of_ne X, rfRead_zero X, rfl, rfl⟩

/-- The cell a read delivers, named by the index's number: 0 for index 0, whatever the cell holds (R204). -/
theorem rfRead_of_toNat_eq (X : RegFile) {i : RegIdx} {k : Fin 32} (h : i.toNat = k.val) :
    rfRead X i = if k.val = 0 then 0 else X[k] := by
  obtain rfl : k = i.toFin := Fin.ext h.symm
  have hzero : i = 0 ↔ i.toNat = 0 := BitVec.toNat_inj.symm
  simp only [rfRead, hzero]
  rfl

/-- A port selects its raw field, or index 0 when it is disabled (R202). -/
theorem portIndex_toNat (en : Bool) (w : Word) (lo : Nat) :
    (if en then bits w lo 5 else 0).toNat = if en then win w lo 5 else 0 := by
  cases en with
  | false => rfl
  | true => exact bits_toNat w lo 5

/-- Settles O16: both ports are one port, at the fields rs1 and rs2 of the word. -/
theorem portsDeliverTheSelectedRegisters : Obligations.PortsDeliverTheSelectedRegisters :=
  fun _ w X => ⟨rfl, rfl, portIndex_toNat _ w 15, portIndex_toNat _ w 20,
    fun _ => rfRead_of_toNat_eq X, fun _ => rfRead_of_toNat_eq X⟩

end Sys2Proof.Machine
end

section
/-! PROOFS. The launch (70_reset_and_hazards.md R251): the loader's last entry is one more write, so the entries can be
read back from the last to the first. -/

namespace Sys2Proof.Machine

/-- The loader's last entry is written over the image of the entries before it, when it is inside memory (R40). -/
theorem loadImage_concat (memSize : Nat) (cells : List Host.Cell) (c : Host.Cell) :
    loadImage memSize (cells ++ [c]) =
      if c.1 < memSize then (loadImage memSize cells).setByte c.1 c.2 else loadImage memSize cells :=
  List.foldl_concat ..

/-- The last entry decides its own byte, and every other byte is what the entries before it left (log 12). -/
theorem byteAt_loadImage_concat {memSize : Nat} (cells : List Host.Cell) {c : Host.Cell} {a : Nat} (ha : a < memSize) :
    (loadImage memSize (cells ++ [c])).byteAt a = if a = c.1 then c.2 else (loadImage memSize cells).byteAt a := by
  rw [loadImage_concat]
  by_cases hc : c.1 < memSize
  · rw [if_pos hc, byteAt_setByte (loadImage_wf_within memSize cells).1]
  · rw [if_neg hc, if_neg (show a ≠ c.1 by omega)]

/-- An address that the loader lists once, inside memory, holds the byte listed for it (R49). -/
theorem byteAt_loadImage_of_nodup {memSize : Nat} {cells : List Host.Cell} (hnodup : (cells.map Prod.fst).Nodup)
    {c : Host.Cell} (hc : c ∈ cells) (hlt : c.1 < memSize) : (loadImage memSize cells).byteAt c.1 = c.2 := by
  induction cells using List.reverseRecOn with
  | nil => exact absurd hc List.not_mem_nil
  | append_singleton cells last ih =>
    rw [List.map_append, List.map_singleton, ← List.concat_eq_append, List.nodup_concat] at hnodup
    obtain ⟨hlast, hnodup⟩ := hnodup
    rw [byteAt_loadImage_concat cells hlt]
    obtain hc | rfl := List.mem_append.mp hc |>.imp_right List.mem_singleton.mp
    · have hne : c.1 ≠ last.1 := fun heq => hlast (heq ▸ List.mem_map_of_mem hc)
      rw [if_neg hne, ih hnodup hc]
    · rw [if_pos rfl]

/-- Settles O39: every field but the memory is the launch's own, and the memory is the loader's image. -/
theorem launchStateIsTheLaunchTuple : Obligations.LaunchStateIsTheLaunchTuple :=
  fun _ => ⟨rfl, rfl, rfl, rfl, fun hnodup _ => byteAt_loadImage_of_nodup hnodup⟩

end Sys2Proof.Machine
end

section
/-! PROOFS. Encoding and decoding are inverse (30_encoding.md R62 to R68, R80): a word is the encoding of its own fields,
an encoding determines its fields, and a row of the table fixes every bit that is no field. -/

namespace Sys2Proof
open Machine

/-! ### Concatenations -/

/-- Neighbouring parts of a pattern join to one part. -/
theorem extract_append_extract {k : Nat} (x : BitVec k) (lo m n : Nat) :
    x.extractLsb' (lo + n) m ++ x.extractLsb' lo n = x.extractLsb' lo (m + n) :=
  BitVec.extractLsb'_append_extractLsb'_eq_extractLsb' rfl

/-- Neighbouring fields of a word join to one field. -/
theorem bits_append_bits (w : Word) (lo m n : Nat) : bits w (lo + n) m ++ bits w lo n = bits w lo (m + n) :=
  extract_append_extract w lo m n

theorem bits_whole (w : Word) : bits w 0 32 = w := BitVec.extractLsb'_eq_self

/-- A concatenation determines both its parts. -/
theorem append_inj_iff {m n : Nat} {x x' : BitVec m} {y y' : BitVec n} : x ++ y = x' ++ y' ↔ x = x' ∧ y = y' := by
  refine ⟨fun h => ⟨?_, ?_⟩, fun ⟨hx, hy⟩ => hx ▸ hy ▸ rfl⟩
  · rw [← BitVec.extractLsb'_append_eq_left (a := x) (b := y), h, BitVec.extractLsb'_append_eq_left]
  · rw [← BitVec.extractLsb'_append_eq_right (a := x) (b := y), h, BitVec.extractLsb'_append_eq_right]

/-! ### The immediates as the encoder takes them -/

/-- The twelve bits of the S immediate (R64). -/
def bitsS (w : Word) : BitVec 12 := bits w 25 7 ++ bits w 7 5

/-- The thirteen bits of the B immediate (R65). -/
def bitsB (w : Word) : BitVec 13 := bits w 31 1 ++ bits w 7 1 ++ bits w 25 6 ++ bits w 8 4 ++ 0#1

/-- The twenty-one bits of the J immediate (R67). -/
def bitsJ (w : Word) : BitVec 21 := bits w 31 1 ++ bits w 12 8 ++ bits w 20 1 ++ bits w 21 10 ++ 0#1

/-- Cutting the 64-bit bus back to an immediate's own width undoes its sign extension (R71). -/
theorem setWidth_signExtend {n : Nat} (hn : n ≤ 64) (x : BitVec n) : (x.signExtend 64).setWidth n = x := by
  apply BitVec.eq_of_toInt_eq
  rw [← BitVec.signExtend_eq_setWidth_of_le _ hn, BitVec.toInt_signExtend_eq_toInt_bmod_of_le _ hn,
    BitVec.toInt_signExtend_of_le hn, BitVec.toInt_bmod_cancel]

@[simp] theorem immI_setWidth (w : Word) : (immI w).setWidth 12 = bits w 20 12 := setWidth_signExtend (by decide) _
@[simp] theorem immS_setWidth (w : Word) : (immS w).setWidth 12 = bitsS w := setWidth_signExtend (by decide) _
@[simp] theorem immB_setWidth (w : Word) : (immB w).setWidth 13 = bitsB w := setWidth_signExtend (by decide) _
@[simp] theorem immJ_setWidth (w : Word) : (immJ w).setWidth 21 = bitsJ w := setWidth_signExtend (by decide) _
@[simp] theorem immU32Of_extract (w : Word) : (immU32Of w).extractLsb' 12 20 = bits w 12 20 :=
  BitVec.extractLsb'_append_eq_left

/-- Bit 0 of a B or J immediate is 0 (R69). -/
theorem bitsB_even (w : Word) : (bitsB w).getLsbD 0 = false := by
  unfold bitsB
  rw [BitVec.getLsbD_append]
  rfl
theorem bitsJ_even (w : Word) : (bitsJ w).getLsbD 0 = false := by
  unfold bitsJ
  rw [BitVec.getLsbD_append]
  rfl

/-! ### A word is the encoding of its own fields -/

theorem encodeR_bits (w : Word) :
    encodeR (bits w 25 7) (bits w 20 5) (bits w 15 5) (bits w 12 3) (bits w 7 5) (bits w 0 7) = w := by
  unfold encodeR
  rw [bits_append_bits w 20 7 5, bits_append_bits w 15 12 5, bits_append_bits w 12 17 3, bits_append_bits w 7 20 5,
    bits_append_bits w 0 25 7]
  exact bits_whole w

theorem encodeI_bits (w : Word) :
    encodeI (bits w 20 12) (bits w 15 5) (bits w 12 3) (bits w 7 5) (bits w 0 7) = w := by
  rw [← bits_append_bits w 20 7 5]
  exact encodeR_bits w

theorem encodeS_bits {w : Word} (hop : bits w 0 7 = 0b0100011) :
    encodeS (bitsS w) (bits w 20 5) (bits w 15 5) (bits w 12 3) = w := by
  unfold encodeS bitsS
  rw [BitVec.extractLsb'_append_eq_left, BitVec.extractLsb'_append_eq_right, ← hop]
  exact encodeR_bits w

/-- The word of a B immediate that is given by its pieces (R65). -/
theorem encodeB_append (a d : BitVec 1) (b : BitVec 6) (c : BitVec 4) (rs2 rs1 : RegIdx) (f3 : BitVec 3) :
    encodeB (a ++ d ++ b ++ c ++ 0#1) rs2 rs1 f3 = a ++ b ++ rs2 ++ rs1 ++ f3 ++ c ++ d ++ (0b1100011 : BitVec 7) := by
  have ha : (a ++ d ++ b ++ c ++ 0#1).extractLsb' 12 1 = a := by
    rw [BitVec.extractLsb'_append_eq_of_le (by decide), BitVec.extractLsb'_append_eq_of_le (by decide),
      BitVec.extractLsb'_append_eq_of_le (by decide)]
    exact BitVec.extractLsb'_append_eq_left
  have hd : (a ++ d ++ b ++ c ++ 0#1).extractLsb' 11 1 = d := by
    rw [BitVec.extractLsb'_append_eq_of_le (by decide), BitVec.extractLsb'_append_eq_of_le (by decide),
      BitVec.extractLsb'_append_eq_of_le (by decide)]
    exact BitVec.extractLsb'_append_eq_right
  have hb : (a ++ d ++ b ++ c ++ 0#1).extractLsb' 5 6 = b := by
    rw [BitVec.extractLsb'_append_eq_of_le (by decide), BitVec.extractLsb'_append_eq_of_le (by decide)]
    exact BitVec.extractLsb'_append_eq_right
  have hc : (a ++ d ++ b ++ c ++ 0#1).extractLsb' 1 4 = c := by
    rw [BitVec.extractLsb'_append_eq_of_le (by decide)]
    exact BitVec.extractLsb'_append_eq_right
  unfold encodeB
  rw [ha, hd, hb, hc]

theorem encodeB_bits {w : Word} (hop : bits w 0 7 = 0b1100011) :
    encodeB (bitsB w) (bits w 20 5) (bits w 15 5) (bits w 12 3) = w := by
  rw [bitsB, encodeB_append, ← hop, bits_append_bits w 25 1 6, bits_append_bits w 20 7 5, bits_append_bits w 15 12 5,
    bits_append_bits w 12 17 3, bits_append_bits w 8 20 4, bits_append_bits w 7 24 1, bits_append_bits w 0 25 7]
  exact bits_whole w

theorem encodeU_bits (w : Word) : encodeU (bits w 12 20) (bits w 7 5) (bits w 0 7) = w := by
  unfold encodeU
  rw [bits_append_bits w 7 20 5, bits_append_bits w 0 25 7]
  exact bits_whole w

/-- The word of a J immediate that is given by its pieces (R67). -/
theorem encodeJ_append (a d : BitVec 1) (e : BitVec 8) (c : BitVec 10) (rd : RegIdx) :
    encodeJ (a ++ e ++ d ++ c ++ 0#1) rd = a ++ c ++ d ++ e ++ rd ++ (0b1101111 : BitVec 7) := by
  have ha : (a ++ e ++ d ++ c ++ 0#1).extractLsb' 20 1 = a := by
    rw [BitVec.extractLsb'_append_eq_of_le (by decide), BitVec.extractLsb'_append_eq_of_le (by decide),
      BitVec.extractLsb'_append_eq_of_le (by decide)]
    exact BitVec.extractLsb'_append_eq_left
  have he : (a ++ e ++ d ++ c ++ 0#1).extractLsb' 12 8 = e := by
    rw [BitVec.extractLsb'_append_eq_of_le (by decide), BitVec.extractLsb'_append_eq_of_le (by decide),
      BitVec.extractLsb'_append_eq_of_le (by decide)]
    exact BitVec.extractLsb'_append_eq_right
  have hd : (a ++ e ++ d ++ c ++ 0#1).extractLsb' 11 1 = d := by
    rw [BitVec.extractLsb'_append_eq_of_le (by decide), BitVec.extractLsb'_append_eq_of_le (by decide)]
    exact BitVec.extractLsb'_append_eq_right
  have hc : (a ++ e ++ d ++ c ++ 0#1).extractLsb' 1 10 = c := by
    rw [BitVec.extractLsb'_append_eq_of_le (by decide)]
    exact BitVec.extractLsb'_append_eq_right
  unfold encodeJ
  rw [ha, he, hd, hc]

theorem encodeJ_bits {w : Word} (hop : bits w 0 7 = 0b1101111) : encodeJ (bitsJ w) (bits w 7 5) = w := by
  rw [bitsJ, encodeJ_append, ← hop, bits_append_bits w 21 1 10, bits_append_bits w 20 11 1, bits_append_bits w 12 12 8,
    bits_append_bits w 7 20 5, bits_append_bits w 0 25 7]
  exact bits_whole w

theorem encodeR4_bits (w : Word) : encodeR4 (bits w 27 5) (bits w 25 2) (bits w 20 5) (bits w 15 5) (bits w 12 3)
    (bits w 7 5) (bits w 0 7) = w := by
  unfold encodeR4
  rw [bits_append_bits w 25 5 2]
  exact encodeR_bits w

/-! ### An encoding determines its fields -/

theorem encodeR_inj {f7 f7' : BitVec 7} {rs2 rs2' rs1 rs1' : RegIdx} {f3 f3' : BitVec 3} {rd rd' : RegIdx}
    {op op' : BitVec 7} (h : encodeR f7 rs2 rs1 f3 rd op = encodeR f7' rs2' rs1' f3' rd' op') :
    f7 = f7' ∧ rs2 = rs2' ∧ rs1 = rs1' ∧ f3 = f3' ∧ rd = rd' := by
  unfold encodeR at h
  rw [append_inj_iff, append_inj_iff, append_inj_iff, append_inj_iff, append_inj_iff] at h
  tauto

theorem encodeI_inj {imm imm' : BitVec 12} {rs1 rs1' : RegIdx} {f3 f3' : BitVec 3} {rd rd' : RegIdx}
    {op op' : BitVec 7} (h : encodeI imm rs1 f3 rd op = encodeI imm' rs1' f3' rd' op') :
    imm = imm' ∧ rs1 = rs1' ∧ rd = rd' := by
  unfold encodeI at h
  rw [append_inj_iff, append_inj_iff, append_inj_iff, append_inj_iff] at h
  tauto

theorem encodeS_inj {imm imm' : BitVec 12} {rs2 rs2' rs1 rs1' : RegIdx} {f3 f3' : BitVec 3}
    (h : encodeS imm rs2 rs1 f3 = encodeS imm' rs2' rs1' f3') : imm = imm' ∧ rs2 = rs2' ∧ rs1 = rs1' := by
  obtain ⟨hhi, hrs2, hrs1, -, hlo⟩ := encodeR_inj h
  refine ⟨?_, hrs2, hrs1⟩
  rw [← BitVec.extractLsb'_append_extractLsb' (w := 7) (len := 5) (x := imm), hhi, hlo]
  exact BitVec.extractLsb'_append_extractLsb'

/-- The lowest bit of an even pattern. -/
theorem extract_zero_of_even {n : Nat} {x : BitVec n} (h : x.getLsbD 0 = false) : x.extractLsb' 0 1 = 0#1 := by
  ext i hi
  simp [show i = 0 by omega, h]

/-- An even B immediate is the concatenation of its pieces (R65). -/
theorem append_extract_of_even_B {imm : BitVec 13} (h : imm.getLsbD 0 = false) :
    imm.extractLsb' 12 1 ++ imm.extractLsb' 11 1 ++ imm.extractLsb' 5 6 ++ imm.extractLsb' 1 4 ++ 0#1 = imm := by
  rw [← extract_zero_of_even h, extract_append_extract imm 11 1 1, extract_append_extract imm 5 2 6,
    extract_append_extract imm 1 8 4, extract_append_extract imm 0 12 1]
  exact BitVec.extractLsb'_eq_self

theorem encodeB_inj {imm imm' : BitVec 13} {rs2 rs2' rs1 rs1' : RegIdx} {f3 f3' : BitVec 3}
    (h0 : imm.getLsbD 0 = false) (h0' : imm'.getLsbD 0 = false)
    (h : encodeB imm rs2 rs1 f3 = encodeB imm' rs2' rs1' f3') : imm = imm' ∧ rs2 = rs2' ∧ rs1 = rs1' := by
  rw [← append_extract_of_even_B h0, ← append_extract_of_even_B h0', encodeB_append, encodeB_append, append_inj_iff,
    append_inj_iff, append_inj_iff, append_inj_iff, append_inj_iff, append_inj_iff, append_inj_iff] at h
  obtain ⟨⟨⟨⟨⟨⟨⟨h12, h5⟩, hrs2⟩, hrs1⟩, -⟩, h1⟩, h11⟩, -⟩ := h
  rw [← append_extract_of_even_B h0, ← append_extract_of_even_B h0', h12, h11, h5, h1]
  exact ⟨rfl, hrs2, hrs1⟩

theorem encodeU_inj {imm imm' : BitVec 20} {rd rd' : RegIdx} {op op' : BitVec 7}
    (h : encodeU imm rd op = encodeU imm' rd' op') : imm = imm' ∧ rd = rd' := by
  unfold encodeU at h
  rw [append_inj_iff, append_inj_iff] at h
  exact h.1

/-- An even J immediate is the concatenation of its pieces (R67). -/
theorem append_extract_of_even_J {imm : BitVec 21} (h : imm.getLsbD 0 = false) :
    imm.extractLsb' 20 1 ++ imm.extractLsb' 12 8 ++ imm.extractLsb' 11 1 ++ imm.extractLsb' 1 10 ++ 0#1 = imm := by
  rw [← extract_zero_of_even h, extract_append_extract imm 12 1 8, extract_append_extract imm 11 9 1,
    extract_append_extract imm 1 10 10, extract_append_extract imm 0 20 1]
  exact BitVec.extractLsb'_eq_self

theorem encodeJ_inj {imm imm' : BitVec 21} {rd rd' : RegIdx} (h0 : imm.getLsbD 0 = false)
    (h0' : imm'.getLsbD 0 = false) (h : encodeJ imm rd = encodeJ imm' rd') : imm = imm' ∧ rd = rd' := by
  rw [← append_extract_of_even_J h0, ← append_extract_of_even_J h0', encodeJ_append, encodeJ_append, append_inj_iff,
    append_inj_iff, append_inj_iff, append_inj_iff, append_inj_iff] at h
  obtain ⟨⟨⟨⟨⟨h20, h1⟩, h11⟩, h12⟩, hrd⟩, -⟩ := h
  rw [← append_extract_of_even_J h0, ← append_extract_of_even_J h0', h20, h12, h11, h1]
  exact ⟨rfl, hrd⟩

theorem encodeR4_inj {fs3 fs3' : BitVec 5} {f2 f2' : BitVec 2} {fs2 fs2' fs1 fs1' : BitVec 5} {f3 f3' : BitVec 3}
    {fd fd' : BitVec 5} {op op' : BitVec 7}
    (h : encodeR4 fs3 f2 fs2 fs1 f3 fd op = encodeR4 fs3' f2' fs2' fs1' f3' fd' op') :
    fs3 = fs3' ∧ f2 = f2' ∧ fs2 = fs2' ∧ fs1 = fs1' ∧ f3 = f3' ∧ fd = fd' := by
  obtain ⟨hhi, hrest⟩ := encodeR_inj h
  obtain ⟨hfs3, hf2⟩ := append_inj_iff.mp hhi
  exact ⟨hfs3, hf2, hrest⟩

/-! ### The instruction of a word whose mnemonic is known -/

/-- The format of a mnemonic's row (R80). -/
def Mnemonic.fmt : Mnemonic → Format
  | .add | .sub | .sll | .slt | .sltu | .xor | .srl | .sra | .or | .and | .addw | .subw | .sllw | .srlw | .sraw => .R
  | .addi | .slti | .sltiu | .xori | .ori | .andi | .slli | .srli | .srai | .addiw | .slliw | .srliw | .sraiw => .I
  | .lb | .lh | .lw | .ld | .lbu | .lhu | .lwu | .jalr | .fence | .ecall | .ebreak => .I
  | .sb | .sh | .sw | .sd => .S
  | .beq | .bne | .blt | .bge | .bltu | .bgeu => .B
  | .lui | .auipc => .U
  | .jal => .J
  | .r4Madd | .r4Msub | .r4Nmsub | .r4Nmadd => .R4

theorem table_row_fmt : ∀ r ∈ table, r.fmt = r.mnemonic.fmt := by decide

/-- The operands of a word under a mnemonic, with the immediate of the mnemonic's own format. -/
def Mnemonic.instrOf (m : Mnemonic) (w : Word) : Instr :=
  { idec true w with imm := selectImm m.fmt w }.operandsFor m

/-- In a word of the mnemonic's format, IDEC's outputs carry these operands (R79). -/
theorem operandsFor_idec {hasR4 : Bool} {w : Word} {m : Mnemonic} (h : formatOf hasR4 (opcodeOf w) = m.fmt) :
    (idec hasR4 w).operandsFor m = m.instrOf w := by
  rw [Mnemonic.instrOf, ← h]
  cases m <;> rfl

/-- A word decodes to an instruction exactly when a counting row matches it, and the row gives the instruction (R80). -/
theorem decode_eq_some_iff {hasR4 : Bool} {w : Word} {i : Instr} :
    decode hasR4 w = some i ↔ ∃ r ∈ table, r.counts hasR4 = true ∧ r.matchesWord w = true ∧
      r.mnemonic.instrOf w = i := by
  have hfmt {r : Row} (hr : r ∈ table) (hc : r.counts hasR4 = true) (hm : r.matchesWord w = true) :
      formatOf hasR4 (opcodeOf w) = r.mnemonic.fmt := (formatOf_eq_of_row hr hc hm).trans (table_row_fmt r hr)
  constructor
  · intro h
    obtain ⟨m, hid, rfl⟩ := Option.map_eq_some_iff.mp h
    obtain ⟨r, hr, rfl, hc, hm⟩ := identify_row hid
    exact ⟨r, hr, hc, hm, (operandsFor_idec (hfmt hr hc hm)).symm⟩
  · rintro ⟨r, hr, hc, hm, rfl⟩
    rw [← operandsFor_idec (hfmt hr hc hm)]
    exact congrArg (Option.map (idec hasR4 w).operandsFor) (identify_eq_of_row hr hc hm)

theorem mnemonic_instrOf (m : Mnemonic) (w : Word) : (m.instrOf w).mnemonic = m := by cases m <;> rfl

/-- An instruction is an R4 class exactly when its row has the format R4 (R80). -/
theorem isR4_eq (i : Instr) : i.isR4 = (i.mnemonic.fmt == .R4) := by cases i <;> rfl

/-- A word gives even branch and jump offsets (R69). -/
theorem operandsOk_instrOf (m : Mnemonic) (w : Word) : (m.instrOf w).operandsOk = true := by
  have hB : (!((immB w).setWidth 13).getLsbD 0) = true := by rw [immB_setWidth, bitsB_even, Bool.not_false]
  have hJ : (!((immJ w).setWidth 21).getLsbD 0) = true := by rw [immJ_setWidth, bitsJ_even, Bool.not_false]
  cases m with
  | beq | bne | blt | bge | bltu | bgeu => exact hB
  | jal => exact hJ
  | _ => rfl

/-- The bits a matching row asks for. -/
theorem bits_of_row {w mask value : Word} (h : w &&& mask = value) {lo len : Nat} {x : BitVec len}
    (hx : bits mask lo len = BitVec.allOnes len ∧ bits value lo len = x) : bits w lo len = x := by
  obtain ⟨hcover, hvalue⟩ := hx
  rw [← hvalue, ← h]
  exact bits_eq_of_and_eq hcover (by rw [BitVec.and_assoc, BitVec.and_self])


/-! One lemma per format: a word that a row matches is the encoding of its fields with what the row asks for. The row's
demands are closed facts about its mask and value. -/

theorem encodeR_of_row {w mask value : Word} {f7 : BitVec 7} {f3 : BitVec 3} {op : BitVec 7} (h : w &&& mask = value)
    (h7 : bits mask 25 7 = BitVec.allOnes 7 ∧ bits value 25 7 = f7 := by decide)
    (h3 : bits mask 12 3 = BitVec.allOnes 3 ∧ bits value 12 3 = f3 := by decide)
    (hop : bits mask 0 7 = BitVec.allOnes 7 ∧ bits value 0 7 = op := by decide) :
    encodeR f7 (rs2Of w) (rs1Of w) f3 (rdOf w) op = w := by
  rw [← bits_of_row h h7, ← bits_of_row h h3, ← bits_of_row h hop]
  exact encodeR_bits w

theorem encodeI_of_row {w mask value : Word} {f3 : BitVec 3} {op : BitVec 7} (h : w &&& mask = value)
    (h3 : bits mask 12 3 = BitVec.allOnes 3 ∧ bits value 12 3 = f3 := by decide)
    (hop : bits mask 0 7 = BitVec.allOnes 7 ∧ bits value 0 7 = op := by decide) :
    encodeI ((immI w).setWidth 12) (rs1Of w) f3 (rdOf w) op = w := by
  rw [immI_setWidth, ← bits_of_row h h3, ← bits_of_row h hop]
  exact encodeI_bits w

theorem encodeI_shift_of_row {w mask value : Word} {f6 : BitVec 6} {f3 : BitVec 3} {op : BitVec 7}
    (h : w &&& mask = value) (h6 : bits mask 26 6 = BitVec.allOnes 6 ∧ bits value 26 6 = f6 := by decide)
    (h3 : bits mask 12 3 = BitVec.allOnes 3 ∧ bits value 12 3 = f3 := by decide)
    (hop : bits mask 0 7 = BitVec.allOnes 7 ∧ bits value 0 7 = op := by decide) :
    encodeI (f6 ++ bits w 20 6) (rs1Of w) f3 (rdOf w) op = w := by
  rw [← bits_of_row h h6, bits_append_bits w 20 6 6, ← bits_of_row h h3, ← bits_of_row h hop]
  exact encodeI_bits w

theorem encodeS_of_row {w mask value : Word} {f3 : BitVec 3} (h : w &&& mask = value)
    (h3 : bits mask 12 3 = BitVec.allOnes 3 ∧ bits value 12 3 = f3 := by decide)
    (hop : bits mask 0 7 = BitVec.allOnes 7 ∧ bits value 0 7 = 0b0100011 := by decide) :
    encodeS ((immS w).setWidth 12) (rs2Of w) (rs1Of w) f3 = w := by
  rw [immS_setWidth, ← bits_of_row h h3]
  exact encodeS_bits (bits_of_row h hop)

theorem encodeB_of_row {w mask value : Word} {f3 : BitVec 3} (h : w &&& mask = value)
    (h3 : bits mask 12 3 = BitVec.allOnes 3 ∧ bits value 12 3 = f3 := by decide)
    (hop : bits mask 0 7 = BitVec.allOnes 7 ∧ bits value 0 7 = 0b1100011 := by decide) :
    encodeB ((immB w).setWidth 13) (rs2Of w) (rs1Of w) f3 = w := by
  rw [immB_setWidth, ← bits_of_row h h3]
  exact encodeB_bits (bits_of_row h hop)

theorem encodeU_of_row {w mask value : Word} {op : BitVec 7} (h : w &&& mask = value)
    (hop : bits mask 0 7 = BitVec.allOnes 7 ∧ bits value 0 7 = op := by decide) :
    encodeU ((immU32Of w).extractLsb' 12 20) (rdOf w) op = w := by
  rw [immU32Of_extract, ← bits_of_row h hop]
  exact encodeU_bits w

theorem encodeJ_of_row {w mask value : Word} (h : w &&& mask = value)
    (hop : bits mask 0 7 = BitVec.allOnes 7 ∧ bits value 0 7 = 0b1101111 := by decide) :
    encodeJ ((immJ w).setWidth 21) (rdOf w) = w := by
  rw [immJ_setWidth]
  exact encodeJ_bits (bits_of_row h hop)

theorem encodeR4_of_row {w mask value : Word} {op : BitVec 7} (h : w &&& mask = value)
    (hop : bits mask 0 7 = BitVec.allOnes 7 ∧ bits value 0 7 = op := by decide) :
    encodeR4 (bits w 27 5) (bits w 25 2) (rs2Of w) (rs1Of w) (funct3Of w) (rdOf w) op = w := by
  rw [← bits_of_row h hop]
  exact encodeR4_bits w

/-- A FENCE's three sets are its immediate (R83). -/
theorem encodeI_fence_of_row {w mask value : Word} {f3 : BitVec 3} {op : BitVec 7} (h : w &&& mask = value)
    (h3 : bits mask 12 3 = BitVec.allOnes 3 ∧ bits value 12 3 = f3 := by decide)
    (hop : bits mask 0 7 = BitVec.allOnes 7 ∧ bits value 0 7 = op := by decide) :
    encodeI (bits w 28 4 ++ bits w 24 4 ++ bits w 20 4) (rs1Of w) f3 (rdOf w) op = w := by
  rw [bits_append_bits w 24 4 4, bits_append_bits w 20 8 4, ← immI_setWidth]
  exact encodeI_of_row h h3 hop

/-- A word that a row matches is the encoding of the row's instruction (R80). -/
theorem encode_instrOf_of_row {w : Word} :
    ∀ r ∈ table, w &&& r.mask = r.value → encode (r.mnemonic.instrOf w) = w := by
  simp only [table, rowsOp, rowsOp32, rowsOpImm, rowsOpImm32, rowsLoad, rowsOther, rowsStore, rowsBranch, rowsUpper,
    rowsR4, List.forall_mem_append, List.forall_mem_cons, List.not_mem_nil, false_imp_iff, implies_true, and_true]
  refine ⟨⟨⟨⟨⟨⟨⟨⟨⟨?op, ?op32⟩, ?opImm⟩, ?opImm32⟩, ?load⟩, ?other⟩, ?store⟩, ?branch⟩, ?upper⟩, ?r4⟩
  case op | op32 => and_intros <;> exact fun h => encodeR_of_row h
  case opImm =>
    and_intros
    iterate 6 exact fun h => encodeI_of_row h
    iterate 3 exact fun h => encodeI_shift_of_row h
  case opImm32 =>
    exact ⟨fun h => encodeI_of_row h, fun h => encodeR_of_row h, fun h => encodeR_of_row h, fun h => encodeR_of_row h⟩
  case load => and_intros <;> exact fun h => encodeI_of_row h
  case other =>
    have hword {v : Word} (h : w &&& 0xFFFFFFFF = v) : v = w := h.symm.trans BitVec.and_allOnes
    exact ⟨fun h => encodeI_of_row h, fun h => encodeI_fence_of_row h, hword, hword⟩
  case store => and_intros <;> exact fun h => encodeS_of_row h
  case branch => and_intros <;> exact fun h => encodeB_of_row h
  case upper => exact ⟨fun h => encodeU_of_row h, fun h => encodeU_of_row h, fun h => encodeJ_of_row h⟩
  case r4 => and_intros <;> exact fun h => encodeR4_of_row h

/-- Two instructions of one mnemonic with one encoding are equal. -/
theorem operandsFor_eq_of_encode_eq {d : Decoded} {i : Instr} (hd : (d.operandsFor i.mnemonic).operandsOk = true)
    (hi : i.operandsOk = true) (h : encode (d.operandsFor i.mnemonic) = encode i) : d.operandsFor i.mnemonic = i := by
  cases i with
  | add | sub | sll | slt | sltu | xor | srl | sra | or | and | addw | subw | sllw | srlw | sraw =>
    obtain ⟨-, rfl, rfl, -, rfl⟩ := encodeR_inj h
    rfl
  | addi | slti | sltiu | xori | ori | andi | addiw | lb | lh | lw | ld | lbu | lhu | lwu | jalr =>
    obtain ⟨rfl, rfl, rfl⟩ := encodeI_inj h
    rfl
  | slli | srli | srai | slliw | srliw | sraiw =>
    obtain ⟨himm, rfl, rfl⟩ := encodeI_inj h
    obtain ⟨-, rfl⟩ := append_inj_iff.mp himm
    rfl
  | fence =>
    obtain ⟨himm, rfl, rfl⟩ := encodeI_inj h
    obtain ⟨hhi, rfl⟩ := append_inj_iff.mp himm
    obtain ⟨rfl, rfl⟩ := append_inj_iff.mp hhi
    rfl
  | ecall | ebreak => rfl
  | sb | sh | sw | sd =>
    obtain ⟨rfl, rfl, rfl⟩ := encodeS_inj h
    rfl
  | beq | bne | blt | bge | bltu | bgeu =>
    obtain ⟨rfl, rfl, rfl⟩ := encodeB_inj ((Bool.not_eq_true' _).mp hd) ((Bool.not_eq_true' _).mp hi) h
    rfl
  | lui | auipc =>
    obtain ⟨rfl, rfl⟩ := encodeU_inj h
    rfl
  | jal =>
    obtain ⟨rfl, rfl⟩ := encodeJ_inj ((Bool.not_eq_true' _).mp hd) ((Bool.not_eq_true' _).mp hi) h
    rfl
  | r4Madd | r4Msub | r4Nmsub | r4Nmadd =>
    obtain ⟨rfl, rfl, rfl, rfl, rfl, rfl⟩ := encodeR4_inj h
    rfl

/-- The encoding of every instruction matches a row of its own mnemonic (R80). -/
theorem rowMatches (i : Instr) : Laws.RowMatches.Statement i := by
  cases i
  open Laws.RowMatches in
  exacts [add .., sub .., sll .., slt .., sltu .., xor .., srl .., sra .., or .., and .., addw .., subw .., sllw ..,
    srlw .., sraw .., addi .., slti .., sltiu .., xori .., ori .., andi .., slli .., srli .., srai .., addiw .., slliw ..,
    srliw .., sraiw .., lb .., lh .., lw .., ld .., lbu .., lhu .., lwu .., jalr .., fence .., ecall, ebreak, sb ..,
    sh .., sw .., sd .., beq .., bne .., blt .., bge .., bltu .., bgeu .., lui .., auipc .., jal .., r4Madd ..,
    r4Msub .., r4Nmsub .., r4Nmadd ..]

/-- Settles O2: the encoding matches the row of its own mnemonic, the row's instruction for that word has the same
encoding, and the encoding determines the operands. -/
theorem decodeOfEncodeIsTheInstruction : Obligations.DecodeOfEncodeIsTheInstruction := by
  intro hasR4 i hwf
  obtain ⟨hok, hr4⟩ := Bool.and_eq_true_iff.mp hwf
  obtain ⟨r, hr, hmn, hmatch⟩ := rowMatches i
  have hcounts : r.counts hasR4 = true := by rwa [Row.counts, table_row_fmt r hr, hmn, bne, ← isR4_eq]
  have henc : encode (i.mnemonic.instrOf (encode i)) = encode i := hmn ▸ encode_instrOf_of_row r hr hmatch
  refine decode_eq_some_iff.mpr ⟨r, hr, hcounts, (matchesWord_iff ..).mpr hmatch, ?_⟩
  rw [hmn]
  exact operandsFor_eq_of_encode_eq (operandsOk_instrOf ..) hok henc

/-- Settles O3: the row that identifies a word fixes every bit of it that is no operand. -/
theorem encodeOfDecodeIsTheWord : Obligations.EncodeOfDecodeIsTheWord := by
  intro hasR4 w i h
  obtain ⟨r, hr, hc, hm, rfl⟩ := decode_eq_some_iff.mp h
  refine ⟨encode_instrOf_of_row r hr ((matchesWord_iff ..).mp hm), ?_⟩
  rw [Instr.wf, operandsOk_instrOf, Bool.true_and, isR4_eq, mnemonic_instrOf, ← table_row_fmt r hr]
  exact hc

/-- Settles O4: two rows that match one word ask for the same bits where both ask. -/
theorem noTwoRowsMatchOneWord : Obligations.NoTwoRowsMatchOneWord :=
  fun w r q hr hq hrw hqw => row_eq_of_matchesWord hr hq ((matchesWord_iff r w).mpr hrw) ((matchesWord_iff q w).mpr hqw)

/-- Settles O13: no row has the format NONE, and the row that identifies a word is the row of its mnemonic. -/
theorem supportedWordsHaveTheirRowsFormat : Obligations.SupportedWordsHaveTheirRowsFormat := by
  intro hasR4 w
  refine ⟨fun h => congrArg Option.isNone (identify_eq_none_of_formatOf h), fun r hr h => ?_⟩
  obtain ⟨q, hq, hmn, hc, hm⟩ := identify_row h
  rw [table_row_fmt r hr, ← hmn, ← table_row_fmt q hq]
  exact formatOf_eq_of_row hq hc hm

/-- Settles O1: fourteen words of the tables and six that no row matches, decoded one by one. -/
theorem specExampleWordsDecode : Obligations.SpecExampleWordsDecode := by
  unfold Obligations.SpecExampleWordsDecode
  decide

end Sys2Proof
end

section
/-! PROOFS. Memory accesses (20_memory.md R42 to R48): what a read gives, what a write leaves, and a read after a write. -/

namespace Sys2Proof.Machine

/-- Settles O23: the value of an admitted read is its bytes' value, and what is not admitted faults. -/
theorem memReadIsLittleEndian : Obligations.MemReadIsLittleEndian := by
  intro s kind a w
  have hw := w.bytes_le_eight
  exact ⟨fun h => ⟨_, memRead_ok h, loadLE_toNat s _ _ hw, loadLE_toNat_lt _ _ _ hw⟩, memRead_error⟩

/-- Settles O24: the state that an admitted write leaves is `storeLE`'s. -/
theorem memWriteChangesExactlyItsBytes : Obligations.MemWriteChangesExactlyItsBytes :=
  fun s a w v hwf h => ⟨_, memWrite_ok h, stored_storeLE s hwf a w.bytes v s.pc, storeLE_wf hwf ..⟩

/-- A write that completes was admitted, and its state is `storeLE`'s (R43, R46). -/
theorem memWrite_eq_ok_iff {s t : State} {a : Addr} {w : Width} {v : XWord} :
    memWrite s a w v = .ok t ↔ Admitted s a w.bytes ∧ t = { s with mem := s.mem.storeLE a.toNat v w.bytes } := by
  by_cases h : Admitted s a w.bytes
  · simp [memWrite_ok h, h, eq_comm]
  · simp [memWrite_error h, h]

/-- A read depends on the bytes it covers alone (R42). -/
theorem loadLE_congr {m m' : Memory} {a n : Nat} (h : ∀ k < n, m.byteAt (a + k) = m'.byteAt (a + k)) :
    m.loadLE a n = m'.loadLE a n := by
  induction n with
  | zero => rfl
  | succ n ih => rw [Memory.loadLE, Memory.loadLE, ih fun k hk => h k (by omega), h n (by omega)]

/-- One byte more of a number's binary digits. -/
theorem div_mod_two_pow_add_eight (x p q : Nat) :
    x / 2 ^ p % 2 ^ (q + 8) = x / 2 ^ p % 2 ^ q + x / 2 ^ (p + q) % 2 ^ 8 * 2 ^ q := by
  rw [pow_add 2 q, Nat.mod_mul, Nat.div_div_eq_div_mul, ← pow_add, Nat.mul_comm (2 ^ q)]

/-- The bytes of a stored value, read together, are that part of the value (R42, R43). -/
theorem bytesValue_of_stored {s t : State} {a : Addr} {n : Nat} {v : XWord} {pc' : Addr} (h : Stored s t a n v pc')
    (o m : Nat) (hm : o + m ≤ n) : t.bytesValue (a.toNat + o) m = v.toNat / 2 ^ (8 * o) % 2 ^ (8 * m) := by
  obtain ⟨-, -, hbyte, -⟩ := h
  induction m with
  | zero => rw [Nat.mul_zero, pow_zero, Nat.mod_one]; rfl
  | succ m ih =>
    rw [State.bytesValue, ih (by omega), Nat.add_assoc, hbyte (o + m) (by omega), Nat.mul_add 8 o m]
    exact (div_mod_two_pow_add_eight ..).symm

/-- A part of an admitted access that is aligned to its own width is admitted (R44). -/
theorem admitted_of_within {s : State} {a b : Addr} {n m : Nat} (h : Admitted s a n) (hb : b.toNat + m ≤ a.toNat + n)
    (hal : b.toNat % m = 0) : Admitted s b m := ⟨hal, hb.trans h.2⟩

/-- Settles O26: inside the written bytes a read gives their part of the value; outside them no byte has changed. -/
theorem readReturnsTheNewestBytes : Obligations.ReadReturnsTheNewestBytes := by
  intro s t a b w u v kind hwf hwrite
  obtain ⟨ha, rfl⟩ := memWrite_eq_ok_iff.mp hwrite
  have hst := stored_storeLE s hwf a w.bytes v s.pc
  refine ⟨fun hlo hhi hal => ?_, fun hout => ?_⟩
  · refine ⟨_, memRead_ok (admitted_of_within ha hhi hal), ?_⟩
    rw [loadLE_toNat _ _ _ u.bytes_le_eight]
    have hval := bytesValue_of_stored hst (b.toNat - a.toNat) u.bytes (by omega)
    rwa [Nat.add_sub_cancel' hlo] at hval
  · have hsame : (s.mem.storeLE a.toNat v w.bytes).loadLE b.toNat u.bytes = s.mem.loadLE b.toNat u.bytes :=
      loadLE_congr fun k hk => by rw [byteAt_storeLE hwf, if_neg (by omega)]
    simp only [memRead, hsame]

end Sys2Proof.Machine
end

section
/-! PROOFS. The step (70_reset_and_hazards.md R250): fetch, decode, and the one shared operation that each instruction
ends in. -/

namespace Sys2Proof.Machine

/-! ### Fetch and decode -/

theorem fetchWord_error {s : State} (h : ¬ Admitted s s.pc 4) :
    fetchWord s = .error (.accessFault .fetch s.pc 4) := by
  unfold fetchWord
  rw [memRead_error (w := .word) h]
  rfl

theorem fetchWord_ok {s : State} (h : Admitted s s.pc 4) :
    fetchWord s = .ok ((s.mem.loadLE s.pc.toNat 4).setWidth 32) := by
  unfold fetchWord
  rw [memRead_ok (w := .word) h]
  rfl

/-- A fetch gives the word of the four bytes at the pc, and only where they are admitted (R50). -/
theorem fetchWord_eq_ok_iff {s : State} {w : Word} :
    fetchWord s = .ok w ↔ Admitted s s.pc 4 ∧ w.toNat = s.bytesValue s.pc.toNat 4 := by
  by_cases h : Admitted s s.pc 4
  · have hval : ((s.mem.loadLE s.pc.toNat 4).setWidth 32).toNat = s.bytesValue s.pc.toNat 4 := by
      rw [BitVec.toNat_setWidth, Nat.mod_eq_of_lt (loadLE_toNat_lt _ _ 4 (by decide)), loadLE_toNat s _ 4 (by decide)]
    rw [fetchWord_ok h, Except.ok.injEq, ← BitVec.toNat_inj, hval, eq_comm, and_iff_right h]
  · simp [fetchWord_error h, h]

/-- A step whose word decodes is that instruction's meaning (R250). -/
theorem step_of_decode {s : State} {w : Word} {i : Instr} (he : s.event = none) (hw : fetchWord s = .ok w)
    (hi : decode s.params.hasR4 w = some i) : step s = exec i s := by
  simp only [step, fetchDecode, he, hw, hi]

theorem step_of_not_decoded {s : State} {w : Word} (he : s.event = none) (hw : fetchWord s = .ok w)
    (hi : decode s.params.hasR4 w = none) : step s = .fault (.unsupported w) := by
  simp only [step, fetchDecode, he, hw, hi]

theorem step_of_fetch_fault {s : State} (he : s.event = none) (h : ¬ Admitted s s.pc 4) :
    step s = .fault (.accessFault .fetch s.pc 4) := by
  simp only [step, fetchDecode, he, fetchWord_error h]

/-- Settles O30: the event is looked at before the fetch. -/
theorem endedRunTakesNoFurtherStep : Obligations.EndedRunTakesNoFurtherStep := by
  intro s e he
  simp only [step, fetchDecode, he]

/-- What a step of a run that goes on can do. -/
theorem step_cases {s : State} (he : s.event = none) :
    (¬ Admitted s s.pc 4 ∧ step s = .fault (.accessFault .fetch s.pc 4)) ∨
    ∃ w, fetchWord s = .ok w ∧
      ((decode s.params.hasR4 w = none ∧ step s = .fault (.unsupported w)) ∨
        ∃ i, decode s.params.hasR4 w = some i ∧ step s = exec i s) := by
  by_cases h : Admitted s s.pc 4
  · refine .inr ⟨_, fetchWord_ok h, ?_⟩
    cases hi : decode s.params.hasR4 ((s.mem.loadLE s.pc.toNat 4).setWidth 32) with
    | none => exact .inl ⟨rfl, step_of_not_decoded he (fetchWord_ok h) hi⟩
    | some i => exact .inr ⟨i, rfl, step_of_decode he (fetchWord_ok h) hi⟩
  · exact .inl ⟨h, step_of_fetch_fault he h⟩

/-- Settles O27: the fetched word is the one of the four bytes at the pc. -/
theorem stepRunsTheDecodedInstruction : Obligations.StepRunsTheDecodedInstruction :=
  fun _ _ _ he had hw => step_of_decode he (fetchWord_eq_ok_iff.mpr ⟨had, hw⟩)

/-! ### What an instruction asks for -/

/-- The shared operation that an instruction ends in, with everything read that it needs (R250, steps 3 to 5). -/
inductive Act
  | retire (rd : RegIdx) (v : XWord)
  | advance
  | jump (rd : RegIdx) (target : Addr)
  | branch (taken : Bool) (offset : XWord)
  | load (rd : RegIdx) (a : Addr) (w : Width) (ext : XWord → XWord)
  | store (a : Addr) (w : Width) (v : XWord)
  | finish (e : Event)
  | stop (w : Word)

/-- The operation on a state. -/
def Act.run : Act → State → Host.Outcome State Fault Refusal
  | .retire rd v, s => Machine.retire rd v s
  | .advance, s => retireNone s
  | .jump rd target, s => jumpTo rd target s
  | .branch taken offset, s => branchTo taken offset s
  | .load rd a w ext, s => loadTo rd a w ext s
  | .store a w v, s => storeAt a w v s
  | .finish e, s => endRun e s
  | .stop w, _ => raise (.unsupported w)

/-- The register that a completed operation writes. -/
def Act.dest : Act → Option RegIdx
  | .retire rd _ | .jump rd _ | .load rd .. => some rd
  | .advance | .branch .. | .store .. | .finish _ | .stop _ => none

/-- The data access of an operation: its kind, address and width (R224). -/
def Act.access : Act → Option (AccessKind × Addr × Nat)
  | .load _ a w _ => some (.read, a, w.bytes)
  | .store a w _ => some (.write, a, w.bytes)
  | .retire .. | .advance | .jump .. | .branch .. | .finish _ | .stop _ => none

/-- The operation of an instruction, from the pc and the registers alone; `exec_eq_run` ties it to `exec`, so that what is
to be shown of every instruction is shown of eight operations. -/
def actOf (pc : Addr) (x : RegIdx → XWord) : Instr → Act
  | .add rd rs1 rs2 => .retire rd (x rs1 + x rs2)
  | .sub rd rs1 rs2 => .retire rd (x rs1 - x rs2)
  | .sll rd rs1 rs2 => .retire rd (x rs1 <<< amount6 (x rs2))
  | .slt rd rs1 rs2 => .retire rd (ofBool (ltSigned (x rs1) (x rs2)))
  | .sltu rd rs1 rs2 => .retire rd (ofBool (ltUnsigned (x rs1) (x rs2)))
  | .xor rd rs1 rs2 => .retire rd (x rs1 ^^^ x rs2)
  | .srl rd rs1 rs2 => .retire rd (x rs1 >>> amount6 (x rs2))
  | .sra rd rs1 rs2 => .retire rd ((x rs1).sshiftRight (amount6 (x rs2)))
  | .or rd rs1 rs2 => .retire rd (x rs1 ||| x rs2)
  | .and rd rs1 rs2 => .retire rd (x rs1 &&& x rs2)
  | .addw rd rs1 rs2 => .retire rd (sext32 (low32 (x rs1 + x rs2)))
  | .subw rd rs1 rs2 => .retire rd (sext32 (low32 (x rs1 - x rs2)))
  | .sllw rd rs1 rs2 => .retire rd (sext32 (low32 (x rs1) <<< amount5 (x rs2)))
  | .srlw rd rs1 rs2 => .retire rd (sext32 (low32 (x rs1) >>> amount5 (x rs2)))
  | .sraw rd rs1 rs2 => .retire rd (sext32 ((low32 (x rs1)).sshiftRight (amount5 (x rs2))))
  | .addi rd rs1 imm => .retire rd (x rs1 + sext12 imm)
  | .slti rd rs1 imm => .retire rd (ofBool (ltSigned (x rs1) (sext12 imm)))
  | .sltiu rd rs1 imm => .retire rd (ofBool (ltUnsigned (x rs1) (sext12 imm)))
  | .xori rd rs1 imm => .retire rd (x rs1 ^^^ sext12 imm)
  | .ori rd rs1 imm => .retire rd (x rs1 ||| sext12 imm)
  | .andi rd rs1 imm => .retire rd (x rs1 &&& sext12 imm)
  | .slli rd rs1 shamt => .retire rd (x rs1 <<< shamt.toNat)
  | .srli rd rs1 shamt => .retire rd (x rs1 >>> shamt.toNat)
  | .srai rd rs1 shamt => .retire rd ((x rs1).sshiftRight shamt.toNat)
  | .addiw rd rs1 imm => .retire rd (sext32 (low32 (x rs1 + sext12 imm)))
  | .slliw rd rs1 shamt5 => .retire rd (sext32 (low32 (x rs1) <<< shamt5.toNat))
  | .srliw rd rs1 shamt5 => .retire rd (sext32 (low32 (x rs1) >>> shamt5.toNat))
  | .sraiw rd rs1 shamt5 => .retire rd (sext32 ((low32 (x rs1)).sshiftRight shamt5.toNat))
  | .lb rd rs1 imm => .load rd (x rs1 + sext12 imm) .byte (signExtendLow .byte)
  | .lh rd rs1 imm => .load rd (x rs1 + sext12 imm) .half (signExtendLow .half)
  | .lw rd rs1 imm => .load rd (x rs1 + sext12 imm) .word (signExtendLow .word)
  | .ld rd rs1 imm => .load rd (x rs1 + sext12 imm) .double id
  | .lbu rd rs1 imm => .load rd (x rs1 + sext12 imm) .byte (zeroExtendLow .byte)
  | .lhu rd rs1 imm => .load rd (x rs1 + sext12 imm) .half (zeroExtendLow .half)
  | .lwu rd rs1 imm => .load rd (x rs1 + sext12 imm) .word (zeroExtendLow .word)
  | .jalr rd rs1 imm => .jump rd ((x rs1 + sext12 imm) &&& ~~~1#64)
  | .fence .. => .advance
  | .ecall => .finish .ecall
  | .ebreak => .finish .ebreak
  | .sb rs1 rs2 imm => .store (x rs1 + sext12 imm) .byte (x rs2)
  | .sh rs1 rs2 imm => .store (x rs1 + sext12 imm) .half (x rs2)
  | .sw rs1 rs2 imm => .store (x rs1 + sext12 imm) .word (x rs2)
  | .sd rs1 rs2 imm => .store (x rs1 + sext12 imm) .double (x rs2)
  | .beq rs1 rs2 imm => .branch (x rs1 == x rs2) (sext13 imm)
  | .bne rs1 rs2 imm => .branch (x rs1 != x rs2) (sext13 imm)
  | .blt rs1 rs2 imm => .branch (ltSigned (x rs1) (x rs2)) (sext13 imm)
  | .bge rs1 rs2 imm => .branch (!ltSigned (x rs1) (x rs2)) (sext13 imm)
  | .bltu rs1 rs2 imm => .branch (ltUnsigned (x rs1) (x rs2)) (sext13 imm)
  | .bgeu rs1 rs2 imm => .branch (!ltUnsigned (x rs1) (x rs2)) (sext13 imm)
  | .lui rd imm20 => .retire rd (upperImm imm20)
  | .auipc rd imm20 => .retire rd (pc + upperImm imm20)
  | .jal rd imm => .jump rd (pc + sext21 imm)
  | .r4Madd fd fs1 fs2 fs3 funct2 funct3 => .stop (encode (.r4Madd fd fs1 fs2 fs3 funct2 funct3))
  | .r4Msub fd fs1 fs2 fs3 funct2 funct3 => .stop (encode (.r4Msub fd fs1 fs2 fs3 funct2 funct3))
  | .r4Nmsub fd fs1 fs2 fs3 funct2 funct3 => .stop (encode (.r4Nmsub fd fs1 fs2 fs3 funct2 funct3))
  | .r4Nmadd fd fs1 fs2 fs3 funct2 funct3 => .stop (encode (.r4Nmadd fd fs1 fs2 fs3 funct2 funct3))

/-- Executing an instruction is its operation. -/
theorem exec_eq_run (i : Instr) (s : State) : exec i s = (actOf s.pc s.x i).run s := by cases i <;> rfl

theorem dataAccess_eq_access (i : Instr) (s : State) : dataAccess s i = (actOf s.pc s.x i).access := by cases i <;> rfl

/-- The instruction that records an event (R146, R147). -/
def eventInstr : Event → Instr
  | .ecall => .ecall
  | .ebreak => .ebreak

/-- Only ECALL and EBREAK end the run with an event (R227). -/
theorem actOf_eq_finish {pc : Addr} {x : RegIdx → XWord} {i : Instr} {e : Event} (h : actOf pc x i = .finish e) :
    i = eventInstr e := by
  cases i <;> cases h <;> rfl

/-- Only an R4 class stops by itself, with its own word (I11). -/
theorem actOf_eq_stop {pc : Addr} {x : RegIdx → XWord} {i : Instr} {w : Word} (h : actOf pc x i = .stop w) :
    i.isR4 = true ∧ w = encode i := by
  cases i <;> cases h <;> exact ⟨rfl, rfl⟩

/-- The register an instruction writes is IDEC's `rd`, and its format has one (R77). -/
theorem actOf_instrOf_dest {pc : Addr} {x : RegIdx → XWord} {m : Mnemonic} {w : Word} {r : RegIdx}
    (h : (actOf pc x (m.instrOf w)).dest = some r) : m.fmt.rdValid = true ∧ r = rdOf w := by
  cases m <;> cases h <;> exact ⟨rfl, rfl⟩

/-- An instruction depends on the registers through the ports of its format alone (R25, R200). -/
theorem actOf_instrOf_congr {pc : Addr} {x y : RegIdx → XWord} {m : Mnemonic} {w : Word}
    (hA : m.fmt.rs1Valid = true → x (rs1Of w) = y (rs1Of w)) (hB : m.fmt.rs2Valid = true → x (rs2Of w) = y (rs2Of w)) :
    actOf pc x (m.instrOf w) = actOf pc y (m.instrOf w) := by
  cases m with
  | fence | ecall | ebreak | lui | auipc | jal | r4Madd | r4Msub | r4Nmsub | r4Nmadd => rfl
  | addi | slti | sltiu | xori | ori | andi | slli | srli | srai | addiw | slliw | srliw | sraiw
  | lb | lh | lw | ld | lbu | lhu | lwu | jalr =>
    simp only [Mnemonic.instrOf, Decoded.operandsFor, actOf, idec, hA rfl]
  | _ => simp only [Mnemonic.instrOf, Decoded.operandsFor, actOf, idec, hA rfl, hB rfl]

/-! ### What an operation can do -/

/-- Everything that an operation can come to: it writes one register, only moves the pc, stores, ends the run with an
event, faults in its data access, or stops as an R4 class does. -/
inductive Ends (a : Act) (s : State) : Host.Outcome State Fault Refusal → Prop
  | wrote (rd : RegIdx) (v : XWord) (pc' : Addr) (hdest : a.dest = some rd)
      (htarget : pc' = s.nextPc ∨ a = .jump rd pc') : Ends a s (.next ((s.writeReg rd v).setPc pc'))
  | moved (pc' : Addr) (htarget : pc' = s.nextPc ∨ ∃ offset, a = .branch true offset ∧ pc' = s.pc + offset) :
      Ends a s (.next (s.setPc pc'))
  | stored (b : Addr) (w : Width) (v : XWord) (ha : a = .store b w v) (hb : Admitted s b w.bytes) :
      Ends a s (.next (State.setPc { s with mem := s.mem.storeLE b.toNat v w.bytes } s.nextPc))
  | finished (e : Event) (ha : a = .finish e) : Ends a s (.next { s with event := some e })
  | faulted (kind : AccessKind) (b : Addr) (n : Nat) (hacc : a.access = some (kind, b, n)) (hb : ¬ Admitted s b n) :
      Ends a s (.fault (.accessFault kind b n))
  | stopped (w : Word) (ha : a = .stop w) : Ends a s (.fault (.unsupported w))

theorem ends_run (a : Act) (s : State) : Ends a s (a.run s) := by
  cases a with
  | retire rd v => exact .wrote rd v _ rfl (.inl rfl)
  | advance => exact .moved _ (.inl rfl)
  | jump rd target => exact .wrote rd _ target rfl (.inr rfl)
  | branch taken offset =>
    cases taken with
    | false => exact .moved _ (.inl rfl)
    | true => exact .moved _ (.inr ⟨offset, rfl, rfl⟩)
  | load rd b w ext =>
    change Ends _ s (loadTo rd b w ext s)
    by_cases hb : Admitted s b w.bytes
    · rw [loadTo, memRead_ok hb]
      exact .wrote rd _ _ rfl (.inl rfl)
    · rw [loadTo_fault hb]
      exact .faulted _ _ _ rfl hb
  | store b w v =>
    change Ends _ s (storeAt b w v s)
    by_cases hb : Admitted s b w.bytes
    · rw [storeAt_next hb]
      exact .stored b w v rfl hb
    · rw [storeAt_fault hb]
      exact .faulted _ _ _ rfl hb
  | finish e => exact .finished e rfl
  | stop w => exact .stopped w rfl

/-- A data access that is not admitted stops its operation (R46). -/
theorem run_of_not_admitted {a : Act} {s : State} {kind : AccessKind} {b : Addr} {n : Nat}
    (hacc : a.access = some (kind, b, n)) (hb : ¬ Admitted s b n) : a.run s = .fault (.accessFault kind b n) := by
  cases a with
  | load => cases hacc; exact loadTo_fault hb
  | store => cases hacc; exact storeAt_fault hb
  | _ => cases hacc

theorem ends_exec (i : Instr) (s : State) : Ends (actOf s.pc s.x i) s (exec i s) := exec_eq_run i s ▸ ends_run _ s

/-- A step completes only in a run that goes on, and as the instruction of the fetched word (R250). -/
theorem step_eq_next {s t : State} (h : step s = .next t) :
    s.event = none ∧ ∃ w i, fetchWord s = .ok w ∧ decode s.params.hasR4 w = some i ∧ exec i s = .next t := by
  cases he : s.event with
  | some e => simp [endedRunTakesNoFurtherStep s e he] at h
  | none =>
    obtain ⟨-, hs⟩ | ⟨w, hw, ⟨-, hs⟩ | ⟨i, hi, hs⟩⟩ := step_cases he
    · simp [hs] at h
    · simp [hs] at h
    · exact ⟨rfl, w, i, hw, hi, hs ▸ h⟩

/-- A completed step is the fetched instruction's operation, come to an end. -/
theorem step_ends {s t : State} (h : step s = .next t) :
    ∃ w i, fetchWord s = .ok w ∧ decode s.params.hasR4 w = some i ∧ Ends (actOf s.pc s.x i) s (.next t) := by
  obtain ⟨-, w, i, hw, hi, hx⟩ := step_eq_next h
  exact ⟨w, i, hw, hi, hx ▸ ends_exec i s⟩

/-- What IDEC says of a word that decodes: the instruction is the operands of a mnemonic whose format is the word's. -/
theorem decode_instrOf {hasR4 : Bool} {w : Word} {i : Instr} (h : decode hasR4 w = some i) :
    ∃ m : Mnemonic, i = m.instrOf w ∧ (idec hasR4 w).fmt = m.fmt ∧ (idec hasR4 w).unsupported = false := by
  obtain ⟨r, hr, hc, hm, rfl⟩ := decode_eq_some_iff.mp h
  exact ⟨r.mnemonic, rfl, (formatOf_eq_of_row hr hc hm).trans (table_row_fmt r hr),
    congrArg Option.isNone (identify_eq_of_row hr hc hm)⟩

end Sys2Proof.Machine
end

section
/-! PROOFS. What every step keeps, changes and stops for (10_state.md R22 and R25, 20_memory.md R40, 60_exceptions.md R222
and R224, 70_reset_and_hazards.md R250): each statement by the ways in which an operation ends. -/

namespace Sys2Proof.Machine

/-- Settles O31: the only new memory is that of an admitted store. -/
theorem stepKeepsTheInvariant : Obligations.StepKeepsTheInvariant := by
  intro s t hinv hstep
  obtain ⟨w, i, -, -, hends⟩ := step_ends hstep
  cases hends with
  | wrote rd v pc' => exact inv_setPc (inv_writeReg hinv rd v) pc'
  | moved pc' => exact inv_setPc hinv pc'
  | stored b u v _ hb => exact inv_setPc (inv_storeLE hinv hb v) _
  | finished e => exact inv_setEvent hinv _

/-- Settles O33: no operation ends with other parameters. -/
theorem noStepChangesTheParameters : Obligations.NoStepChangesTheParameters := by
  intro s t hstep
  obtain ⟨w, i, -, -, hends⟩ := step_ends hstep
  cases hends <;> rfl

/-- Settles O21: the write port never writes the cell behind x0. -/
theorem cellBehindX0IsNeverUpdated : Obligations.CellBehindX0IsNeverUpdated := by
  intro s t hstep
  obtain ⟨w, i, -, -, hends⟩ := step_ends hstep
  cases hends with
  | wrote rd v => exact rfWrite_cell_zero s.regs true rd v
  | _ => rfl

/-- Settles O35: a changed register is the destination of the operation, which is IDEC's `rd`. -/
theorem onlyTheDecodedDestinationChanges : Obligations.OnlyTheDecodedDestinationChanges := by
  intro s t r hstep hne
  obtain ⟨w, i, hw, hi, hends⟩ := step_ends hstep
  obtain ⟨m, rfl, hfmt, hsup⟩ := decode_instrOf hi
  cases hends with
  | wrote rd v pc' hdest =>
    obtain ⟨hvalid, rfl⟩ := actOf_instrOf_dest hdest
    rw [setPc_x, writeReg_x] at hne
    have h0 : r ≠ 0 := by
      rintro rfl
      exact hne rfl
    have hr : r = rdOf w := by
      by_contra hr
      rw [if_neg h0, if_neg hr] at hne
      exact hne rfl
    exact ⟨w, hw, hsup, (congrArg Format.rdValid hfmt).trans hvalid, hr, h0⟩
  | _ => exact absurd rfl hne

/-- Settles O36: only a store's operation leaves another memory, and it changes the bytes of its access alone. -/
theorem onlyStoresChangeMemory : Obligations.OnlyStoresChangeMemory := by
  intro s t b hwf hstep hne
  obtain ⟨w, i, hw, hi, hends⟩ := step_ends hstep
  cases hends with
  | stored a u v ha hadm =>
    obtain ⟨-, -, -, hframe, -⟩ := stored_storeLE s hwf a u.bytes v s.nextPc
    refine ⟨w, i, a, u.bytes, hw, hi, ?_, hadm, ?_⟩
    · rw [dataAccess_eq_access, ha]
      rfl
    · by_contra hout
      exact hne (hframe b (by omega))
  | _ => exact absurd rfl hne

/-- Settles O28: the fetch, then the decode, then the data access. -/
theorem stepConditionsInPriorityOrder : Obligations.StepConditionsInPriorityOrder := by
  intro s he
  refine ⟨step_of_fetch_fault he, fun w hadm hval => ?_⟩
  have hw : fetchWord s = .ok w := fetchWord_eq_ok_iff.mpr ⟨hadm, hval⟩
  refine ⟨fun hun => step_of_not_decoded he hw ?_, fun i kind a n hi hacc hna => ?_⟩
  · have hnone : identify s.params.hasR4 w = none := Option.isNone_iff_eq_none.mp hun
    exact congrArg (Option.map (idec s.params.hasR4 w).operandsFor) hnone
  · rw [step_of_decode he hw hi, exec_eq_run]
    exact run_of_not_admitted (dataAccess_eq_access i s ▸ hacc) hna

/-- Settles O29: an operation faults in its data access or as an R4 class, whose own word is the fetched one. -/
theorem stepStopsOnlyForTheNamedConditions : Obligations.StepStopsOnlyForTheNamedConditions := by
  intro s he
  obtain ⟨hna, hs⟩ | ⟨w, hw, ⟨hnone, hs⟩ | ⟨i, hi, hs⟩⟩ := step_cases he <;> rw [hs]
  · refine ⟨fun r h => (nomatch h), fun f h => ?_⟩
    cases h
    exact .inl ⟨hna, rfl⟩
  · obtain ⟨hadm, hval⟩ := fetchWord_eq_ok_iff.mp hw
    refine ⟨fun r h => (nomatch h), fun f h => ?_⟩
    cases h
    exact .inr ⟨w, hadm, hval, .inl ⟨.inl (congrArg Option.isNone (Option.map_eq_none_iff.mp hnone)), rfl⟩⟩
  · obtain ⟨hadm, hval⟩ := fetchWord_eq_ok_iff.mp hw
    have hends := ends_exec i s
    refine ⟨fun r h => ?_, fun f h => .inr ⟨w, hadm, hval, ?_⟩⟩ <;> rw [h] at hends
    · cases hends
    · cases hends with
      | faulted kind b n hacc hb =>
        exact .inr ⟨i, kind, b, n, hi, (dataAccess_eq_access i s).trans hacc, hb, rfl⟩
      | stopped v ha =>
        obtain ⟨hr4, rfl⟩ := actOf_eq_stop ha
        obtain ⟨m, rfl, hfmt, -⟩ := decode_instrOf hi
        rw [isR4_eq, mnemonic_instrOf, beq_iff_eq] at hr4
        obtain ⟨henc, -⟩ := encodeOfDecodeIsTheWord _ _ _ hi
        exact .inl ⟨.inr (hfmt.trans hr4), congrArg Fault.unsupported henc⟩

/-! ### The pc stays even (R65, R67, R143) -/

theorem even_iff {n : Nat} (x : BitVec n) : x.toNat % 2 = 0 ↔ x.getLsbD 0 = false := by
  simp [BitVec.getLsbD, Nat.testBit_zero]

/-- An even offset added to an even pc. -/
theorem even_add_signExtend {n : Nat} (hn : 0 < n) {pc : Addr} {x : BitVec n} (hpc : pc.toNat % 2 = 0)
    (hx : x.getLsbD 0 = false) : (pc + x.signExtend 64).toNat % 2 = 0 := by
  have hoff : (x.signExtend 64).toNat % 2 = 0 := by
    rw [even_iff, BitVec.getLsbD_signExtend, if_pos hn, hx, Bool.and_false]
  rw [BitVec.toNat_add]
  omega

/-- A target or a branch offset of an operation is even, from an even pc. -/
def Act.Even (pc : Addr) : Act → Prop
  | .jump _ target => target.toNat % 2 = 0
  | .branch _ offset => (pc + offset).toNat % 2 = 0
  | .retire .. | .advance | .load .. | .store .. | .finish _ | .stop _ => True

theorem actOf_even {pc : Addr} {x : RegIdx → XWord} {i : Instr} (hi : i.operandsOk = true) (hpc : pc.toNat % 2 = 0) :
    (actOf pc x i).Even pc := by
  cases i with
  | jalr rd rs1 imm =>
    change ((x rs1 + sext12 imm) &&& ~~~1#64).toNat % 2 = 0
    rw [even_iff, BitVec.getLsbD_and, show (~~~1#64).getLsbD 0 = false from rfl, Bool.and_false]
  | jal rd imm => exact even_add_signExtend (by decide) hpc ((Bool.not_eq_true' _).mp hi)
  | beq | bne | blt | bge | bltu | bgeu => exact even_add_signExtend (by decide) hpc ((Bool.not_eq_true' _).mp hi)
  | _ => trivial

theorem even_nextPc {s : State} (hpc : s.pc.toNat % 2 = 0) : s.nextPc.toNat % 2 = 0 := by
  have hfour : (4 : Addr).toNat = 4 := rfl
  rw [nextPc_eq, BitVec.toNat_add, hfour]
  omega

/-- Settles O34: a word is fetched at an aligned pc, and the targets and offsets of a decoded instruction are even. -/
theorem pcIsEvenAfterEveryStep : Obligations.PcIsEvenAfterEveryStep := by
  intro s t hstep
  obtain ⟨w, i, hw, hi, hends⟩ := step_ends hstep
  obtain ⟨⟨halign, -⟩, -⟩ := fetchWord_eq_ok_iff.mp hw
  obtain ⟨m, rfl, -⟩ := decode_instrOf hi
  have hpc : s.pc.toNat % 2 = 0 := by omega
  have heven := actOf_even (x := s.x) (operandsOk_instrOf m w) hpc
  cases hends with
  | wrote rd v pc' _ htarget =>
    obtain rfl | ha := htarget
    · exact even_nextPc hpc
    · rwa [ha] at heven
  | moved pc' htarget =>
    obtain rfl | ⟨offset, ha, rfl⟩ := htarget
    · exact even_nextPc hpc
    · rwa [ha] at heven
  | stored => exact even_nextPc hpc
  | finished => exact hpc

/-! ### Two states that differ in their registers alone (R25) -/

theorem sameEffect_wrote (s : State) (X : RegFile) (rd : RegIdx) (v : XWord) (pc' : Addr) :
    SameEffect s { s with regs := X } (.next ((s.writeReg rd v).setPc pc'))
      (.next ((State.writeReg { s with regs := X } rd v).setPc pc')) := by
  refine ⟨rfl, rfl, rfl, fun r => ?_⟩
  rw [setPc_x, setPc_x, writeReg_x, writeReg_x]
  by_cases h0 : r = 0
  · exact .inl (by rw [if_pos h0, if_pos h0])
  · by_cases hr : r = rd
    · exact .inl (by rw [if_neg h0, if_neg h0, if_pos hr, if_pos hr])
    · exact .inr ⟨by rw [if_neg h0, if_neg hr], by rw [if_neg h0, if_neg hr]⟩

/-- One operation does the same from both states. -/
theorem sameEffect_run (a : Act) (s : State) (X : RegFile) :
    SameEffect s { s with regs := X } (a.run s) (a.run { s with regs := X }) := by
  cases a with
  | retire rd v => exact sameEffect_wrote s X rd v _
  | jump rd target => exact sameEffect_wrote s X rd _ target
  | advance | branch | finish => exact ⟨rfl, rfl, rfl, fun _ => .inr ⟨rfl, rfl⟩⟩
  | load rd b w ext =>
    change SameEffect s _ (loadTo rd b w ext s) (loadTo rd b w ext { s with regs := X })
    by_cases hb : Admitted s b w.bytes
    · rw [loadTo, loadTo, memRead_ok hb, memRead_ok (s := { s with regs := X }) hb]
      exact sameEffect_wrote s X rd _ _
    · rw [loadTo_fault hb, loadTo_fault (s := { s with regs := X }) hb]
      rfl
  | store b w v =>
    change SameEffect s _ (storeAt b w v s) (storeAt b w v { s with regs := X })
    by_cases hb : Admitted s b w.bytes
    · rw [storeAt_next hb, storeAt_next (s := { s with regs := X }) hb]
      exact ⟨rfl, rfl, rfl, fun _ => .inr ⟨rfl, rfl⟩⟩
    · rw [storeAt_fault hb, storeAt_fault (s := { s with regs := X }) hb]
      rfl
  | stop w => rfl

/-- Ports that deliver the same show the same values of the source registers that the format has (R200). -/
theorem rfRead_eq_of_rps_eq {d : Decoded} {X Y : RegFile} (h : rps d X = rps d Y) :
    (d.rs1Valid = true → rfRead X d.rs1 = rfRead Y d.rs1) ∧ (d.rs2Valid = true → rfRead X d.rs2 = rfRead Y d.rs2) := by
  have hA := congrArg Ports.aData h
  have hB := congrArg Ports.bData h
  refine ⟨fun hv => ?_, fun hv => ?_⟩
  · simpa only [rps, hv, if_true] using hA
  · simpa only [rps, hv, if_true] using hB

/-- Settles O37: both states fetch one word and one operation, because the operation depends on the ports alone. -/
theorem stepReadsRegistersOnlyThroughThePorts : Obligations.StepReadsRegistersOnlyThroughThePorts := by
  rintro ⟨X, pc, mem, ev, params⟩ ⟨Y, _, _, _, _⟩ w rfl rfl rfl rfl hw hports
  cases ev with
  | some e =>
    rw [endedRunTakesNoFurtherStep _ e rfl, endedRunTakesNoFurtherStep _ e rfl]
    rfl
  | none =>
    cases hi : decode params.hasR4 w with
    | none =>
      rw [step_of_not_decoded rfl hw hi, step_of_not_decoded (s := ⟨Y, pc, mem, none, params⟩) rfl hw hi]
      rfl
    | some i =>
      rw [step_of_decode rfl hw hi, step_of_decode (s := ⟨Y, pc, mem, none, params⟩) rfl hw hi, exec_eq_run, exec_eq_run]
      obtain ⟨m, rfl, hfmt, -⟩ := decode_instrOf hi
      obtain ⟨hA, hB⟩ := rfRead_eq_of_rps_eq hports
      have hact : actOf pc (rfRead X) (m.instrOf w) = actOf pc (rfRead Y) (m.instrOf w) :=
        actOf_instrOf_congr (fun h => hA ((congrArg Format.rs1Valid hfmt).trans h))
          fun h => hB ((congrArg Format.rs2Valid hfmt).trans h)
      change SameEffect _ _ ((actOf pc (rfRead X) (m.instrOf w)).run _) ((actOf pc (rfRead Y) (m.instrOf w)).run _)
      rw [hact]
      exact sameEffect_run _ ⟨X, pc, mem, none, params⟩ Y

end Sys2Proof.Machine
end

section
/-! PROOFS. Runs and stored words (70_reset_and_hazards.md R252, 20_memory.md R57). -/

namespace Sys2Proof.Machine

/-- Settles O38: the fetch reads the bytes that the store left. -/
theorem fetchSeesTheStoredWord : Obligations.FetchSeesTheStoredWord := by
  intro s t rs1 rs2 imm hwf hx
  change storeAt (effAddr s rs1 imm) .word (s.x rs2) s = .next t at hx
  by_cases hadm : Admitted s (effAddr s rs1 imm) Width.word.bytes
  · rw [storeAt_next hadm] at hx
    cases hx
    have hst := stored_storeLE s hwf (effAddr s rs1 imm) 4 (s.x rs2) (effAddr s rs1 imm)
    have hval := bytesValue_of_stored hst 0 4 (by decide)
    refine ⟨(s.x rs2).setWidth 32, fetchWord_eq_ok_iff.mpr ⟨hadm, ?_⟩, BitVec.toNat_setWidth ..⟩
    rw [BitVec.toNat_setWidth]
    exact (hval.trans (by rw [Nat.mul_zero, pow_zero, Nat.div_one])).symm
  · rw [storeAt_fault hadm] at hx
    cases hx

/-- A step that ends the run with an event is its instruction's, and does nothing else (R227, R252). -/
theorem step_event {s t : State} {e : Event} (h : step s = .next t) (he : t.event = some e) :
    t = { s with event := some e } ∧ fetchWord s = .ok (encode (eventInstr e)) := by
  obtain ⟨hnone, -⟩ := step_eq_next h
  obtain ⟨w, i, hw, hi, hends⟩ := step_ends h
  obtain ⟨henc, -⟩ := encodeOfDecodeIsTheWord _ _ _ hi
  cases hends with
  | finished e' ha =>
    cases he
    exact ⟨rfl, by rw [hw, ← henc, actOf_eq_finish ha]⟩
  | _ => exact absurd (hnone.symm.trans he) (by simp)

theorem step_ne_refused {s : State} (he : s.event = none) (r : Refusal) : step s ≠ .refused r :=
  (stepStopsOnlyForTheNamedConditions s he).1 r

/-- Settles O41, by induction on the fuel. -/
theorem runEndsAsTheEndTableSays : Obligations.RunEndsAsTheEndTableSays := by
  intro fuel
  induction fuel with
  | zero => exact fun s _ => ⟨fun r t h => (nomatch h), fun e t h => (nomatch h), fun f t h => (nomatch h)⟩
  | succ fuel ih =>
    intro s he
    cases hs : step s with
    | refused r => exact absurd hs (step_ne_refused he r)
    | fault f =>
      simp only [run, hs]
      refine ⟨fun r t h => (nomatch h), fun e t h => (nomatch h), fun g t h => ?_⟩
      cases h
      exact ⟨he, hs⟩
    | next u =>
      simp only [run, hs]
      cases hu : u.event with
      | none => exact ih u hu
      | some e =>
        refine ⟨fun r t h => (nomatch h), fun e' t h => ?_, fun g t h => (nomatch h)⟩
        cases h
        obtain ⟨heq, hword⟩ := step_event hs hu
        exact ⟨s, he, hs, heq, hword.trans (by cases e <;> rfl)⟩

/-- Settles O42: the step gives the same state back, and the rest is induction on the fuel. -/
theorem selfJumpNeverEnds : Obligations.SelfJumpNeverEnds := by
  intro fuel s he hw
  have hi : decode s.params.hasR4 0x0000006F = some (.jal 0 0) := by cases s.params.hasR4 <;> decide
  have hstep : step s = .next s := by
    rw [step_of_decode he hw hi]
    change Host.Outcome.next ((s.writeReg 0#5 s.nextPc).setPc (s.pc + sext21 0)) = .next s
    rw [writeReg_zero, show sext21 0 = 0#64 from by decide, BitVec.add_zero]
    rfl
  induction fuel with
  | zero => rfl
  | succ fuel ih => simp only [run, hstep, he, ih]

end Sys2Proof.Machine
end

section
/-! PROOFS. The immediates as numbers (30_encoding.md R66, R69, R70): their ranges and their sign, from the windows they are
assembled of. -/

namespace Sys2Proof
open Machine

theorem win_lt (w : Word) (lo len : Nat) : win w lo len < 2 ^ len := Nat.mod_lt _ (Nat.two_pow_pos _)

/-- The U immediate on the 64-bit bus (R66, decision D4). -/
theorem immU_toInt (w : Word) : (immU w).toInt = sgn 32 (win w 12 20 * 2 ^ 12) := by
  rw [immU, signExtend_toInt (by decide), immU32Of_toNat]

/-- Settles O8: the views' fields are fields of the word, and the U immediate has its law. -/
theorem upperAndR4ViewsAreTheFieldSets : Obligations.UpperAndR4ViewsAreTheFieldSets := by
  intro w
  simp only [viewU, viewR4, opcodeOf, rdOf, funct3Of, bits_toNat, immU32Of_toNat, immU_toInt, and_self]

/-- The range of a signed pattern (R15). -/
theorem sgn_range {n v : Nat} (hn : 0 < n) (hv : v < 2 ^ n) : -2 ^ (n - 1) ≤ sgn n v ∧ sgn n v < 2 ^ (n - 1) := by
  obtain ⟨n, rfl⟩ := Nat.exists_eq_add_one.mpr hn
  have hpow : (2 : Int) ^ (n + 1) = 2 * 2 ^ n := pow_succ' 2 n
  unfold sgn
  rw [Nat.add_sub_cancel, hpow]
  split <;> zify at * <;> omega

/-- A pattern is negative exactly when its top bit is set (R15). -/
theorem sgn_neg_iff {n v : Nat} (hv : v < 2 ^ n) : sgn n v < 0 ↔ 2 ^ (n - 1) ≤ v := by
  unfold sgn
  split <;> zify at * <;> omega

/-- A power of two that divides the pattern divides its signed value. -/
theorem dvd_sgn {n v k : Nat} (hk : k ≤ n) (hv : 2 ^ k ∣ v) : (2 ^ k : Int) ∣ sgn n v := by
  have hv' : (2 ^ k : Int) ∣ v := by exact_mod_cast hv
  unfold sgn
  split
  · exact hv'
  · exact dvd_sub hv' (pow_dvd_pow 2 hk)

/-! The pattern of each immediate: its width, and its top bit, which is the word's (R63 to R67). -/

theorem patternI (w : Word) : win w 20 12 < 2 ^ 12 ∧ (2 ^ 11 ≤ win w 20 12 ↔ win w 31 1 = 1) := by
  have hlt := w.isLt
  simp only [win, Nat.reducePow]
  omega

theorem patternS (w : Word) : win w 25 7 * 2 ^ 5 + win w 7 5 < 2 ^ 12 ∧
    (2 ^ 11 ≤ win w 25 7 * 2 ^ 5 + win w 7 5 ↔ win w 31 1 = 1) := by
  have htop : 2 ^ 6 ≤ win w 25 7 ↔ win w 31 1 = 1 := by
    have hlt := w.isLt
    simp only [win, Nat.reducePow]
    omega
  have h25 := win_lt w 25 7
  have h7 := win_lt w 7 5
  omega

theorem patternB (w : Word) :
    win w 31 1 * 2 ^ 12 + win w 7 1 * 2 ^ 11 + win w 25 6 * 2 ^ 5 + win w 8 4 * 2 < 2 ^ 13 ∧
    (2 ^ 12 ≤ win w 31 1 * 2 ^ 12 + win w 7 1 * 2 ^ 11 + win w 25 6 * 2 ^ 5 + win w 8 4 * 2 ↔ win w 31 1 = 1) := by
  have h31 := win_lt w 31 1
  have h7 := win_lt w 7 1
  have h25 := win_lt w 25 6
  have h8 := win_lt w 8 4
  omega

theorem patternU (w : Word) : win w 12 20 * 2 ^ 12 < 2 ^ 32 ∧ (2 ^ 31 ≤ win w 12 20 * 2 ^ 12 ↔ win w 31 1 = 1) := by
  have hlt := w.isLt
  simp only [win, Nat.reducePow]
  omega

theorem patternJ (w : Word) :
    win w 31 1 * 2 ^ 20 + win w 12 8 * 2 ^ 12 + win w 20 1 * 2 ^ 11 + win w 21 10 * 2 < 2 ^ 21 ∧
    (2 ^ 20 ≤ win w 31 1 * 2 ^ 20 + win w 12 8 * 2 ^ 12 + win w 20 1 * 2 ^ 11 + win w 21 10 * 2 ↔ win w 31 1 = 1) := by
  have h31 := win_lt w 31 1
  have h12 := win_lt w 12 8
  have h20 := win_lt w 20 1
  have h21 := win_lt w 21 10
  omega

/-- Settles O9: the range is that of the pattern's width, and the zeros at its end divide the value. -/
theorem immediateRangesAndGranularity : Obligations.ImmediateRangesAndGranularity := by
  intro w
  simp only [viewI, viewS, viewB, viewU, viewJ, immI_toInt, immS_toInt, immB_toInt, immU_toInt, immJ_toInt,
    immU32Of_toNat]
  have hI := sgn_range (by decide) (patternI w).1
  have hS := sgn_range (by decide) (patternS w).1
  have hB := sgn_range (by decide) (patternB w).1
  have hU := sgn_range (by decide) (patternU w).1
  have hJ := sgn_range (by decide) (patternJ w).1
  have hB2 : (2 ^ 1 : Int) ∣ sgn 13 (win w 31 1 * 2 ^ 12 + win w 7 1 * 2 ^ 11 + win w 25 6 * 2 ^ 5 + win w 8 4 * 2) :=
    dvd_sgn (by decide) (by omega)
  have hU12 : (2 ^ 12 : Int) ∣ sgn 32 (win w 12 20 * 2 ^ 12) := dvd_sgn (by decide) (Nat.dvd_mul_left ..)
  have hJ2 : (2 ^ 1 : Int) ∣
      sgn 21 (win w 31 1 * 2 ^ 20 + win w 12 8 * 2 ^ 12 + win w 20 1 * 2 ^ 11 + win w 21 10 * 2) :=
    dvd_sgn (by decide) (by omega)
  refine ⟨?_, ?_, ?_, ?_, ?_⟩ <;> omega

theorem getLsbD_thirtyOne (w : Word) : w.getLsbD 31 = true ↔ win w 31 1 = 1 := by
  rw [BitVec.getLsbD, Nat.testBit_eq_decide_div_mod_eq, decide_eq_true_iff]
  rfl

/-- Settles O10: bit 31 is the top bit of every immediate's pattern. -/
theorem immediateSignIsBit31 : Obligations.ImmediateSignIsBit31 := by
  intro w
  simp only [viewI, viewS, viewB, viewU, viewJ, immI_toInt, immS_toInt, immB_toInt, immU_toInt, immJ_toInt,
    getLsbD_thirtyOne]
  have hsign {n v : Nat} (h : v < 2 ^ n ∧ (2 ^ (n - 1) ≤ v ↔ win w 31 1 = 1)) : sgn n v < 0 ↔ win w 31 1 = 1 :=
    (sgn_neg_iff h.1).trans h.2
  exact ⟨hsign (patternI w), hsign (patternS w), hsign (patternB w), hsign (patternU w), hsign (patternJ w)⟩

end Sys2Proof
end

section
/-! PROOFS. The ports by format, the register file under later writes, and the register names (10_state.md R23,
48_read_port_selector.md R200, R208). -/

namespace Sys2Proof.Machine

/-- Settles O17: the valid bits enable the ports, and a disabled port selects x0. -/
theorem portEnablesFollowTheFormat : Obligations.PortEnablesFollowTheFormat := by
  intro hasR4 w X
  refine ⟨Format.rs1Valid_iff _, Format.rs2Valid_iff _, fun h => ?_, fun h => ?_⟩
  · have hidx : (rps (idec hasR4 w) X).aIdx = 0 := if_neg (Bool.eq_false_iff.mp h)
    exact ⟨hidx, congrArg (rfRead X) hidx⟩
  · have hidx : (rps (idec hasR4 w) X).bIdx = 0 := if_neg (Bool.eq_false_iff.mp h)
    exact ⟨hidx, congrArg (rfRead X) hidx⟩

/-- Block steps that do not write an index leave it as it was (R208). -/
theorem rfRead_foldl_blockStep (p : Params) (k : RegIdx) (later : List BlockInput)
    (h : ∀ j ∈ later, ¬ (j.we = true ∧ j.wa = k)) (X : RegFile) :
    rfRead (later.foldl (fun Y j => (blockStep p Y j).regs) X) k = rfRead X k := by
  induction later generalizing X with
  | nil => rfl
  | cons j later ih =>
    rw [List.foldl_cons, ih fun i hi => h i (List.mem_cons_of_mem _ hi)]
    change rfRead (rfWrite X j.we j.wa j.wd) k = _
    rw [rfRead_rfWrite, if_neg fun ⟨⟨hwe, _⟩, hk⟩ => h j List.mem_cons_self ⟨hwe, hk.symm⟩]

/-- Settles O19: a later write is read over only where it is to the same index, and index 0 reads 0 in every register
file. -/
theorem registerReadsItsLastWrite : Obligations.RegisterReadsItsLastWrite := by
  intro p X inp later hwe
  refine ⟨fun k hk hwa hlater => ?_, fun _ => rfRead_zero _, fun k hk => ?_⟩
  · rw [rfRead_foldl_blockStep p k later hlater]
    change rfRead (rfWrite X inp.we inp.wa inp.wd) k = _
    rw [rfRead_rfWrite, if_pos ⟨⟨hwe, hwa ▸ hk⟩, hwa.symm⟩]
  · change rfRead (rfWrite X inp.we inp.wa inp.wd) k = _
    rw [rfRead_rfWrite, if_neg fun h => hk h.2]

/-- Settles O22: the 32 indices and the 32 names, one by one. -/
theorem registerNamesAreOneToOne : Obligations.RegisterNamesAreOneToOne :=
  ⟨by decide, fun n => by cases n <;> rfl, rfl, rfl⟩

/-- Settles O32: memory after reset lists nothing. -/
theorem resetMeetsTheInvariant : Obligations.ResetMeetsTheInvariant :=
  ⟨⟨List.Pairwise.nil, fun _ h => absurd h List.not_mem_nil⟩, fun _ h => absurd h List.not_mem_nil⟩

/-- Settles O40: the fields of `State.reset`. -/
theorem resetHasTheSpecsValues : Obligations.ResetHasTheSpecsValues := ⟨x_zero _, rfl, rfl, rfl⟩

end Sys2Proof.Machine
end

section
/-! PROOFS. Words as numbers: sums modulo 2^64, 32-bit results read as signed, comparisons and shifts, the values that the
downstream lines name (00_scope.md R14 and R15, 41_r_type.md, 42_i_type.md). -/

namespace Sys2Proof.Machine

/-- A sum modulo 2^64, with the second part read as signed (R71, R250). -/
theorem add_toNat (x y : XWord) : ((x + y).toNat : Int) = (x.toNat + y.toInt) % 2 ^ 64 := by
  have hy := y.isLt
  rw [BitVec.toInt_eq_toNat_cond, BitVec.toNat_add]
  split <;> omega

theorem toNat_eq_toInt_emod (x : XWord) : (x.toNat : Int) = x.toInt % 2 ^ 64 := by
  have hx := x.isLt
  rw [BitVec.toInt_eq_toNat_cond]
  split <;> omega

theorem sub_toNat (x y : XWord) : ((x - y).toNat : Int) = (x.toNat - y.toNat : Int) % 2 ^ 64 := by
  have hx := x.isLt
  have hy := y.isLt
  rw [BitVec.toNat_sub]
  omega

@[simp] theorem sext12_toInt (imm : BitVec 12) : (sext12 imm).toInt = imm.toInt :=
  BitVec.toInt_signExtend_of_le (by decide)
@[simp] theorem sext13_toInt (imm : BitVec 13) : (sext13 imm).toInt = imm.toInt :=
  BitVec.toInt_signExtend_of_le (by decide)
@[simp] theorem sext21_toInt (imm : BitVec 21) : (sext21 imm).toInt = imm.toInt :=
  BitVec.toInt_signExtend_of_le (by decide)

theorem upperImm_toInt (imm20 : BitVec 20) : (upperImm imm20).toInt = sgn 32 (imm20.toNat * 2 ^ 12) := by
  rw [upperImm, signExtend_toInt (by decide), append_toNat, BitVec.toNat_ofNat, Nat.zero_mod]
  exact congrArg (sgn 32) (Nat.add_zero _)

/-- Bit `k` of a sign-extended immediate: its own bit, or its top bit from 11 up (R71). -/
theorem sext12_getLsbD (imm : BitVec 12) {k : Nat} (hk : k < 64) :
    (sext12 imm).getLsbD k = imm.getLsbD (min k 11) := by
  rw [sext12, BitVec.getLsbD_signExtend, decide_eq_true hk, Bool.true_and, BitVec.msb_eq_getLsbD_last]
  split
  · rw [Nat.min_eq_left (by omega)]
  · rw [Nat.min_eq_right (by omega)]

/-- A 32-bit result known modulo 2^32, read as signed (R14). -/
theorem sext32_toInt_of_emod {v : BitVec 32} {z : Int} (h : (v.toNat : Int) = z % 2 ^ 32) :
    (sext32 v).toInt = Int.bmod z (2 ^ 32) := by
  rw [sext32, BitVec.toInt_signExtend_of_le (by decide), BitVec.toInt_eq_toNat_bmod, h]
  exact Int.emod_bmod z (2 ^ 32)

theorem low32_toNat (v : XWord) : (low32 v).toNat = v.toNat % 2 ^ 32 := by
  rw [low32, BitVec.extractLsb'_toNat, Nat.shiftRight_zero]

/-- The low half of a 64-bit result known modulo 2^64, read as signed (R111, R112, R131). -/
theorem sext32_low32_toInt {v : XWord} {z : Int} (h : (v.toNat : Int) = z % 2 ^ 64) :
    (sext32 (low32 v)).toInt = Int.bmod z (2 ^ 32) := by
  refine sext32_toInt_of_emod ?_
  rw [low32_toNat]
  omega

theorem amount6_eq (v : XWord) : amount6 v = v.toNat % 64 := by
  rw [amount6, BitVec.extractLsb'_toNat, Nat.shiftRight_zero]

theorem amount5_eq (v : XWord) : amount5 v = v.toNat % 32 := by
  rw [amount5, BitVec.extractLsb'_toNat, Nat.shiftRight_zero]

theorem shiftLeft_toNat (x : XWord) (n : Nat) : (x <<< n).toNat = x.toNat * 2 ^ n % 2 ^ 64 := by
  rw [BitVec.toNat_shiftLeft, Nat.shiftLeft_eq]

theorem ushiftRight_toNat {k : Nat} (x : BitVec k) (n : Nat) : (x >>> n).toNat = x.toNat / 2 ^ n := by
  rw [BitVec.toNat_ushiftRight, Nat.shiftRight_eq_div_pow]

theorem sshiftRight_toInt {k : Nat} (x : BitVec k) (n : Nat) : (x.sshiftRight n).toInt = x.toInt / 2 ^ n := by
  rw [BitVec.toInt_sshiftRight, Int.shiftRight_eq_div_pow]
  norm_cast

theorem sllw_toInt (x : XWord) (n : Nat) :
    (sext32 (low32 x <<< n)).toInt = Int.bmod (x.toNat * 2 ^ n : Int) (2 ^ 32) := by
  refine sext32_toInt_of_emod ?_
  rw [BitVec.toNat_shiftLeft, Nat.shiftLeft_eq, low32_toNat, Nat.mod_mul_mod]
  norm_cast

theorem srlw_toInt (x : XWord) (n : Nat) :
    (sext32 (low32 x >>> n)).toInt = Int.bmod ((x.toNat % 2 ^ 32 / 2 ^ n : Nat) : Int) (2 ^ 32) := by
  have hv : (low32 x >>> n).toNat = x.toNat % 2 ^ 32 / 2 ^ n := by rw [ushiftRight_toNat, low32_toNat]
  have hlt := (low32 x >>> n).isLt
  refine sext32_toInt_of_emod ?_
  rw [← hv]
  omega

theorem sraw_toInt (x : XWord) (n : Nat) :
    (sext32 ((low32 x).sshiftRight n)).toInt = Int.bmod (x.toNat : Int) (2 ^ 32) / 2 ^ n := by
  have hlow : (low32 x).toInt = Int.bmod (x.toNat : Int) (2 ^ 32) := by
    rw [BitVec.toInt_eq_toNat_bmod, low32_toNat, Int.natCast_emod]
    exact Int.emod_bmod ..
  rw [sext32, BitVec.toInt_signExtend_of_le (by decide), sshiftRight_toInt, hlow]

/-- A comparison's result as a number (R104, R105). -/
theorem ofBool_toNat {c : Bool} {p : Prop} [Decidable p] (h : c = true ↔ p) :
    (ofBool c).toNat = if p then 1 else 0 := by
  cases c with
  | false => rw [if_neg (by simpa using h)]; rfl
  | true => rw [if_pos (h.mp rfl)]; rfl

theorem ltSigned_iff (x y : XWord) : ltSigned x y = true ↔ x.toInt < y.toInt := BitVec.slt_iff_toInt_lt
theorem ltUnsigned_iff (x y : XWord) : ltUnsigned x y = true ↔ x.toNat < y.toNat := BitVec.ult_iff_toNat_lt
theorem not_ltSigned_iff (x y : XWord) : (!ltSigned x y) = true ↔ x.toInt ≥ y.toInt := by
  rw [Bool.not_eq_true', ← Bool.not_eq_true, ltSigned_iff, not_lt]
theorem not_ltUnsigned_iff (x y : XWord) : (!ltUnsigned x y) = true ↔ x.toNat ≥ y.toNat := by
  rw [Bool.not_eq_true', ← Bool.not_eq_true, ltUnsigned_iff, not_lt]

theorem signExtendLow_toInt (w : Width) {v : XWord} (hv : v.toNat < 2 ^ (8 * w.bytes)) :
    (signExtendLow w v).toInt = sgn (8 * w.bytes) v.toNat := by
  have hlow {n : Nat} (hn : n + 1 ≤ 64) (h : v.toNat < 2 ^ (n + 1)) :
      ((v.extractLsb' 0 (n + 1)).signExtend 64).toInt = sgn (n + 1) v.toNat := by
    rw [signExtend_toInt hn, BitVec.extractLsb'_toNat, Nat.shiftRight_zero, Nat.mod_eq_of_lt h]
  cases w with
  | byte => exact hlow (n := 7) (by decide) hv
  | half => exact hlow (n := 15) (by decide) hv
  | word => exact hlow (n := 31) (by decide) hv
  | double => exact hlow (n := 63) (by decide) hv

theorem zeroExtendLow_toNat (w : Width) {v : XWord} (hv : v.toNat < 2 ^ (8 * w.bytes)) :
    (zeroExtendLow w v).toNat = v.toNat := by
  rw [zeroExtendLow, BitVec.toNat_setWidth, BitVec.extractLsb'_toNat, Nat.shiftRight_zero, Nat.mod_eq_of_lt hv,
    Nat.mod_eq_of_lt v.isLt]

end Sys2Proof.Machine
end

section
/-! PROOFS. What the instructions do (41_r_type.md to 46_j_type.md, log 7): each meaning is one shared operation, so its
frame is the operation's and only the value is its own. -/

namespace Sys2Proof.Machine

/-! ### From the operation to the statement -/

theorem computes_of_retire {i : Instr} {s : State} {rd : RegIdx} {v : XWord} {P : XWord → Prop}
    (h : exec i s = retire rd v s) (hv : P v) : Computes i s rd P := by
  obtain ⟨t, ht, hw⟩ := retire_next rd v s
  exact ⟨t, v, h.trans ht, hw, hv⟩

theorem computes_of_load {i : Instr} {s : State} {rd : RegIdx} {a : Addr} {w : Width} {ext : XWord → XWord}
    {P : XWord → Prop} (h : exec i s = loadTo rd a w ext s) (ha : Admitted s a w.bytes)
    (hv : P (ext (s.mem.loadLE a.toNat w.bytes))) : Computes i s rd P := by
  obtain ⟨t, ht, hw⟩ := loadTo_next ha
  exact ⟨t, _, h.trans ht, hw, hv⟩

theorem stored_of_store {i : Instr} {s : State} {a : Addr} {w : Width} {v : XWord} (hwf : s.mem.wf)
    (h : exec i s = storeAt a w v s) (ha : Admitted s a w.bytes) :
    ∃ t, exec i s = .next t ∧ Stored s t a w.bytes v (s.pc + 4) :=
  ⟨_, h.trans (storeAt_next ha), stored_storeLE s hwf a w.bytes v _⟩

/-- A branch moves the pc by its offset when its comparison holds, by 4 otherwise (R170). -/
theorem movesBy_of_branch {i : Instr} {s : State} {taken : Bool} {imm : BitVec 13} {p : Prop} [Decidable p]
    (h : exec i s = branchTo taken (sext13 imm) s) (hp : taken = true ↔ p) :
    MovesBy i s (if p then imm.toInt else 4) := by
  obtain ⟨t, ht, hm⟩ := branchTo_next taken (sext13 imm) s
  obtain ⟨hpc, hrest⟩ := hm
  refine ⟨t, h.trans ht, ⟨rfl, hrest⟩, ?_⟩
  rw [hpc]
  by_cases htaken : taken = true
  · rw [if_pos htaken, if_pos (hp.mp htaken), add_toNat, sext13_toInt]
  · rw [if_neg htaken, if_neg fun h => htaken (hp.mpr h), add_toNat]
    rfl

/-! ### Registers and immediates -/

/-- Settles O43: each value is the law of its BitVec operation. -/
theorem opResults : Obligations.OpResults := by
  intro s rd rs1 rs2
  refine ⟨computes_of_retire rfl (BitVec.toNat_add ..), computes_of_retire rfl (sub_toNat ..),
    computes_of_retire rfl ?_, computes_of_retire rfl (ofBool_toNat (ltSigned_iff ..)),
    computes_of_retire rfl (ofBool_toNat (ltUnsigned_iff ..)), computes_of_retire rfl fun k => BitVec.getLsbD_xor,
    computes_of_retire rfl ?_, computes_of_retire rfl ?_, computes_of_retire rfl fun k => BitVec.getLsbD_or,
    computes_of_retire rfl fun k => BitVec.getLsbD_and⟩
  · rw [shiftLeft_toNat, amount6_eq]
  · rw [ushiftRight_toNat, amount6_eq]
  · rw [sshiftRight_toInt, amount6_eq]

/-- Settles O44: each value is known modulo 2^32 and read as signed. -/
theorem op32Results : Obligations.Op32Results := by
  intro s rd rs1 rs2
  refine ⟨computes_of_retire rfl (sext32_low32_toInt ?_), computes_of_retire rfl (sext32_low32_toInt (sub_toNat ..)),
    computes_of_retire rfl ?_, computes_of_retire rfl ?_, computes_of_retire rfl ?_⟩
  · rw [BitVec.toNat_add]
    norm_cast
  · rw [sllw_toInt, amount5_eq]
  · rw [srlw_toInt, amount5_eq]
  · rw [sraw_toInt, amount5_eq]

/-- Settles O45: the immediate counts as its signed value, bit by bit as its sign extension. -/
theorem opImmResults : Obligations.OpImmResults := by
  intro s rd rs1 imm
  have hbit {k : Nat} (hk : k < 64) := sext12_getLsbD imm hk
  refine ⟨computes_of_retire rfl ?_, computes_of_retire rfl (ofBool_toNat ?_), computes_of_retire rfl (ofBool_toNat ?_),
    computes_of_retire rfl fun k hk => ?_, computes_of_retire rfl fun k hk => ?_,
    computes_of_retire rfl fun k hk => ?_⟩
  · rw [add_toNat, sext12_toInt]
  · rw [ltSigned_iff, sext12_toInt]
  · rw [ltUnsigned_iff, ← sext12_toInt imm, ← toNat_eq_toInt_emod, Nat.cast_lt]
  · rw [BitVec.getLsbD_xor, hbit hk]
  · rw [BitVec.getLsbD_or, hbit hk]
  · rw [BitVec.getLsbD_and, hbit hk]

/-- Settles O46: the shift laws at the amount itself. -/
theorem shiftImmediateResults : Obligations.ShiftImmediateResults :=
  fun _ _ _ _ => ⟨computes_of_retire rfl (shiftLeft_toNat ..), computes_of_retire rfl (ushiftRight_toNat ..),
    computes_of_retire rfl (sshiftRight_toInt ..)⟩

/-- Settles O47: the laws of the 32-bit results. -/
theorem opImm32Results : Obligations.OpImm32Results := by
  intro s rd rs1
  refine ⟨fun imm => computes_of_retire rfl (sext32_low32_toInt ?_), fun sh => ⟨computes_of_retire rfl (sllw_toInt ..),
    computes_of_retire rfl (srlw_toInt ..), computes_of_retire rfl (sraw_toInt ..)⟩⟩
  rw [add_toNat, sext12_toInt]

/-- Settles O53: the upper immediate is the signed value of its 32 bits. -/
theorem upperImmediateResults : Obligations.UpperImmediateResults := by
  intro s rd imm20
  refine ⟨computes_of_retire rfl (upperImm_toInt imm20), computes_of_retire rfl ?_⟩
  rw [add_toNat, upperImm_toInt]

/-! ### Memory -/

/-- The effective address, from its number (R135, R160). -/
theorem effAddr_eq {s : State} {rs1 : RegIdx} {imm : BitVec 12} {a : Addr}
    (h : (a.toNat : Int) = ((s.x rs1).toNat + imm.toInt) % 2 ^ 64) : effAddr s rs1 imm = a := by
  apply BitVec.eq_of_toNat_eq
  rw [← sext12_toInt, ← add_toNat] at h
  exact_mod_cast h.symm

/-- Settles O48: a load's value is its bytes' value, extended. -/
theorem loadResults : Obligations.LoadResults := by
  intro s rd rs1 imm a ha
  obtain rfl := effAddr_eq ha
  have hval (w : Width) : (s.mem.loadLE (effAddr s rs1 imm).toNat w.bytes).toNat =
      s.bytesValue (effAddr s rs1 imm).toNat w.bytes := loadLE_toNat s _ _ w.bytes_le_eight
  have hlt (w : Width) := loadLE_toNat_lt s.mem (effAddr s rs1 imm).toNat w.bytes w.bytes_le_eight
  have hsigned (w : Width) := (signExtendLow_toInt w (hlt w)).trans (congrArg (sgn _) (hval w))
  have hunsigned (w : Width) := (zeroExtendLow_toNat w (hlt w)).trans (hval w)
  exact ⟨fun h => ⟨computes_of_load rfl h (hsigned .byte), computes_of_load rfl h (hunsigned .byte)⟩,
    fun h => ⟨computes_of_load rfl h (hsigned .half), computes_of_load rfl h (hunsigned .half)⟩,
    fun h => ⟨computes_of_load rfl h (hsigned .word), computes_of_load rfl h (hunsigned .word)⟩,
    fun h => computes_of_load rfl h (hval .double)⟩

/-- Settles O49: each store is `storeAt` of its width. -/
theorem storeResults : Obligations.StoreResults :=
  fun _ _ _ _ hwf => ⟨fun h => stored_of_store (w := .byte) hwf rfl h, fun h => stored_of_store (w := .half) hwf rfl h,
    fun h => stored_of_store (w := .word) hwf rfl h, fun h => stored_of_store (w := .double) hwf rfl h⟩

/-- Settles O50: each is its access at the address, refused. -/
theorem loadsAndStoresFaultWhenNotAdmitted : Obligations.LoadsAndStoresFaultWhenNotAdmitted := by
  intro s rd rs1 rs2 imm a ha
  obtain rfl := effAddr_eq ha
  exact ⟨fun h => ⟨loadTo_fault (w := .byte) h, loadTo_fault (w := .byte) h, storeAt_fault (w := .byte) h⟩,
    fun h => ⟨loadTo_fault (w := .half) h, loadTo_fault (w := .half) h, storeAt_fault (w := .half) h⟩,
    fun h => ⟨loadTo_fault (w := .word) h, loadTo_fault (w := .word) h, storeAt_fault (w := .word) h⟩,
    fun h => ⟨loadTo_fault (w := .double) h, storeAt_fault (w := .double) h⟩⟩

/-! ### Control -/

/-- Settles O51: each comparison as the numbers compare. -/
theorem branchResults : Obligations.BranchResults := by
  intro s rs1 rs2 imm
  exact ⟨movesBy_of_branch rfl beq_iff_eq, movesBy_of_branch rfl bne_iff_ne, movesBy_of_branch rfl (ltSigned_iff ..),
    movesBy_of_branch rfl (not_ltSigned_iff ..), movesBy_of_branch rfl (ltUnsigned_iff ..),
    movesBy_of_branch rfl (not_ltUnsigned_iff ..)⟩

/-- Clearing bit 0 rounds down to an even number (R143). -/
theorem clearBitZero_toNat (x : XWord) : (x &&& ~~~1#64).toNat = x.toNat / 2 * 2 := by
  have hshift : x &&& ~~~1#64 = (x >>> 1) <<< 1 := by
    ext k hk
    rw [BitVec.getElem_and, BitVec.getElem_not, BitVec.getElem_one]
    cases k with
    | zero => simp
    | succ k => simp [Nat.add_comm 1 k, ← BitVec.getLsbD_eq_getElem, hk]
  have hx := x.isLt
  rw [hshift, shiftLeft_toNat, ushiftRight_toNat]
  omega

/-- Settles O52: the target is a sum, rounded down to even for JALR. -/
theorem jumpResults : Obligations.JumpResults := by
  intro s rd rs1
  have hjump {i : Instr} {target : Addr} (h : exec i s = jumpTo rd target s) :
      ∃ t, exec i s = .next t ∧ Wrote s t rd (s.pc + 4) t.pc ∧ t.pc = target := by
    obtain ⟨t, ht, hpc, hrest⟩ := jumpTo_next rd target s
    exact ⟨t, h.trans ht, ⟨rfl, hrest⟩, hpc⟩
  refine ⟨fun imm => ?_, fun imm => ?_⟩
  · obtain ⟨t, ht, hw, hpc⟩ := hjump (i := .jal rd imm) rfl
    refine ⟨t, ht, hw, ?_⟩
    rw [hpc, add_toNat, sext21_toInt]
  · obtain ⟨t, ht, hw, hpc⟩ := hjump (i := .jalr rd rs1 imm) rfl
    refine ⟨t, ht, hw, ?_⟩
    rw [hpc, clearBitZero_toNat, Nat.cast_mul, Int.natCast_ediv, Nat.cast_ofNat, add_toNat, sext12_toInt]

/-- Settles O54: a FENCE is the operation that writes nothing. -/
theorem fenceOnlyAdvances : Obligations.FenceOnlyAdvances := by
  intro s fm pred succ rs1 rd
  obtain ⟨t, ht, hpc, hrest⟩ := retireNone_next s
  exact ⟨t, ht, ⟨rfl, hrest⟩, hpc ▸ add_toNat s.pc 4⟩

/-- Settles O55: the event is the one field that changes. -/
theorem ecallAndEbreakEndTheRun : Obligations.EcallAndEbreakEndTheRun :=
  fun _ => ⟨⟨_, rfl, rfl, rfl, fun _ => rfl, fun _ => rfl, rfl⟩, ⟨_, rfl, rfl, rfl, fun _ => rfl, fun _ => rfl, rfl⟩⟩

/-- Settles O56: each class's meaning is the stop of its own word. -/
theorem r4ClassesEndWithUnsupported : Obligations.R4ClassesEndWithUnsupported :=
  fun _ _ _ _ _ _ _ => ⟨rfl, rfl, rfl, rfl⟩

end Sys2Proof.Machine
end

section
/-! PROOFS. The pseudo-instructions (30_encoding.md R90): the two parts of a 32-bit value join to the value again, and an
expansion of two instructions writes its register twice. -/

namespace Sys2Proof.Machine

/-! ### The two parts of a 32-bit value -/

theorem lo12_toNat (imm : BitVec 32) : (lo12 imm).toNat = imm.toNat % 2 ^ 12 := by
  rw [lo12, BitVec.extractLsb'_toNat, Nat.shiftRight_zero]

theorem lo12_toInt (imm : BitVec 32) : (lo12 imm).toInt = Int.bmod imm.toInt (2 ^ 12) := by
  rw [BitVec.toInt_eq_toNat_bmod, BitVec.toInt_eq_toNat_bmod imm, lo12_toNat, Int.natCast_emod,
    Int.bmod_bmod_of_dvd (by decide)]
  exact Int.emod_bmod ..

/-- The upper part is what the lower part leaves, except that from `2^31 - 2^11` up it is read as `2^32` less. -/
theorem upperImm_hi20_toInt (imm : BitVec 32) : (upperImm (hi20 imm)).toInt =
    (if imm.toInt < 2 ^ 31 - 2 ^ 11 then imm.toInt else imm.toInt - 2 ^ 32) - (lo12 imm).toInt := by
  have hN := imm.isLt
  have hS := ((lo12 imm).signExtend 32).isLt
  have hlo : ((lo12 imm).signExtend 32).toInt = (lo12 imm).toInt := BitVec.toInt_signExtend_of_le (by decide)
  have hhi : (hi20 imm).toNat = (imm - (lo12 imm).signExtend 32).toNat / 2 ^ 12 % 2 ^ 20 := by
    rw [hi20, BitVec.extractLsb'_toNat, Nat.shiftRight_eq_div_pow]
  rw [BitVec.toInt_eq_toNat_cond, BitVec.toInt_eq_toNat_cond (lo12 imm), lo12_toNat] at hlo
  rw [upperImm_toInt, hhi, BitVec.toNat_sub, BitVec.toInt_eq_toNat_cond imm, BitVec.toInt_eq_toNat_cond (lo12 imm),
    lo12_toNat, sgn]
  omega

/-- The two parts of a symbol's offset, added to a pc one after the other (R90, log 15). -/
theorem add_hi20_lo12_toNat (pc : Addr) (off : BitVec 32) : ((pc + upperImm (hi20 off) + sext12 (lo12 off)).toNat : Int) =
    (pc.toNat + if off.toInt < 2 ^ 31 - 2 ^ 11 then off.toInt else off.toInt - 2 ^ 32) % 2 ^ 64 := by
  rw [add_toNat, add_toNat, sext12_toInt, upperImm_hi20_toInt]
  omega

/-- LUI of the upper part and ADDIW of the lower one give the value back (R90). -/
theorem sext32_hi20_lo12 (imm : BitVec 32) :
    sext32 (low32 (upperImm (hi20 imm) + sext12 (lo12 imm))) = imm.signExtend 64 := by
  have hsum := add_hi20_lo12_toNat 0#64 imm
  rw [BitVec.zero_add] at hsum
  have hlo := imm.le_toInt
  have hhi := imm.toInt_lt
  apply BitVec.eq_of_toInt_eq
  rw [sext32_low32_toInt hsum, BitVec.toInt_signExtend_of_le (by decide), BitVec.toNat_ofNat, Int.bmod_def]
  omega

/-! ### Lists of two instructions -/

/-- What is written to x0 does not matter (R22). -/
theorem wrote_congr {s t : State} {rd : RegIdx} {v v' : XWord} {a : Addr} (hv : rd ≠ 0 → v = v')
    (h : Wrote s t rd v a) : Wrote s t rd v' a := by
  obtain ⟨hpc, hx, hrest⟩ := h
  refine ⟨hpc, fun r => ?_, hrest⟩
  rw [hx r]
  split
  · rfl
  · split
    · rename_i h0 hr
      exact hv (hr ▸ h0)
    · rfl

theorem wrote_onlyMoved {s t u : State} {rd : RegIdx} {v : XWord} {a b : Addr} (h : Wrote s t rd v a)
    (h' : OnlyMoved t u b) : Wrote s u rd v b := by
  obtain ⟨-, hx, hm, he, hp⟩ := h
  obtain ⟨hpc, hx', hm', he', hp'⟩ := h'
  exact ⟨hpc, fun r => (hx' r).trans (hx r), fun c => (hm' c).trans (hm c), he'.trans he, hp'.trans hp⟩

theorem wrote_x {s t : State} {rd : RegIdx} {v : XWord} {a : Addr} (h : Wrote s t rd v a) (hrd : rd ≠ 0) :
    t.x rd = v := by
  obtain ⟨-, hx, -⟩ := h
  rw [hx rd, if_neg hrd, if_pos rfl]

theorem pc_add_eight {s t : State} (h : t.pc = s.pc + 4) : t.pc + 4 = s.pc + 8 := by
  rw [h, BitVec.add_assoc]
  rfl

/-- Two instructions that write one register, the second from what the first left there. -/
theorem retire_twice {i j : Instr} {s : State} {rd : RegIdx} {v : XWord} {f : XWord → XWord}
    (hi : exec i s = retire rd v s) (hj : ∀ t, exec j t = retire rd (f (t.x rd)) t) :
    ∃ t u, exec i s = .next t ∧ exec j t = .next u ∧ Wrote s u rd (f v) (s.pc + 8) := by
  obtain ⟨t, ht, hw⟩ := retire_next rd v s
  obtain ⟨u, hu, hw'⟩ := retire_next rd (f (t.x rd)) t
  have hv : rd ≠ 0 → f (t.x rd) = f v := fun h => congrArg f (wrote_x hw h)
  exact ⟨t, u, hi.trans ht, (hj t).trans hu, pc_add_eight hw.1 ▸ wrote_congr hv (wrote_trans hw hw')⟩

/-- An instruction whose write is discarded only moves the pc (R22). -/
theorem movesBy_of_wrote_zero {i : Instr} {s t : State} {v : XWord} {a : Addr} {off : Int} (h : exec i s = .next t)
    (hw : Wrote s t 0 v a) (ha : (a.toNat : Int) = (s.pc.toNat + off) % 2 ^ 64) : MovesBy i s off := by
  obtain ⟨hpc, hrest⟩ := onlyMoved_of_wrote_zero hw
  exact ⟨t, h, ⟨rfl, hrest⟩, hpc ▸ ha⟩

/-! ### The statements -/

/-- Settles O57: both instructions write `rd`, and the second one's sum is the value. -/
theorem loadImmediateExpansionLoadsTheValue : Obligations.LoadImmediateExpansionLoadsTheValue := by
  intro s rd imm
  obtain ⟨t, u, ht, hu, hw⟩ := retire_twice (i := .lui rd (hi20 imm)) (j := .addiw rd rd (lo12 imm)) (s := s)
    (f := fun v => sext32 (low32 (v + sext12 (lo12 imm)))) rfl fun _ => rfl
  exact ⟨_, _, t, u, rfl, ht, hu, sext32_hi20_lo12 imm ▸ hw⟩

/-- Settles O59: the second instruction reads the register that the first one wrote. -/
theorem pseudoSymbolExpansionsReachTheSymbol : Obligations.PseudoSymbolExpansionsReachTheSymbol := by
  rintro s rd off d rfl
  have hjalr (t u : State) (rs : RegIdx) (ht : t.x rs = s.pc + upperImm (hi20 off))
      (hu : u.pc = (t.x rs + sext12 (lo12 off)) &&& ~~~1#64) : (u.pc.toNat : Int) =
        (s.pc.toNat + if off.toInt < 2 ^ 31 - 2 ^ 11 then off.toInt else off.toInt - 2 ^ 32) % 2 ^ 64 / 2 * 2 := by
    rw [hu, ht, clearBitZero_toNat, Nat.cast_mul, Int.natCast_ediv, Nat.cast_ofNat, add_hi20_lo12_toNat]
  refine ⟨?_, ?_, ?_⟩
  · obtain ⟨t, ht, hw⟩ := retire_next 1 (s.pc + upperImm (hi20 off)) s
    obtain ⟨u, hu, hw'⟩ := jumpTo_next 1 ((t.x 1 + sext12 (lo12 off)) &&& ~~~1#64) t
    exact ⟨u, t.pc + 4, execSeq_pair ht hu, hw'.1 ▸ wrote_trans hw hw', pc_add_eight hw.1,
      hjalr t u 1 (wrote_x hw (by decide)) hw'.1⟩
  · obtain ⟨t, ht, hw⟩ := retire_next 6 (s.pc + upperImm (hi20 off)) s
    obtain ⟨u, hu, hw'⟩ := jumpTo_next 0 ((t.x 6 + sext12 (lo12 off)) &&& ~~~1#64) t
    refine ⟨u, _, execSeq_pair ht hu, hw'.1 ▸ wrote_onlyMoved hw (onlyMoved_of_wrote_zero hw'), ?_,
      hjalr t u 6 (wrote_x hw (by decide)) hw'.1⟩
    change ((s.pc + upperImm (hi20 off)).toNat : Int) = _
    rw [add_toNat, upperImm_hi20_toInt, lo12_toInt, Int.add_sub_assoc]
  · obtain ⟨t, u, ht, hu, hw⟩ := retire_twice (i := .auipc rd (hi20 off)) (j := .addi rd rd (lo12 off)) (s := s)
      (f := fun v => v + sext12 (lo12 off)) rfl fun _ => rfl
    exact ⟨u, _, execSeq_pair ht hu, hw, add_hi20_lo12_toNat s.pc off⟩

/-- A pseudo-instruction of one instruction that writes a value. -/
theorem seqComputes_of_retire {i : Instr} {s : State} {rd : RegIdx} {v : XWord} {P : XWord → Prop}
    (h : exec i s = retire rd v s) (hv : P v) : SeqComputes [i] s rd 4 P :=
  seqComputes_of_computes (computes_of_retire h hv)

theorem seqMovesBy_of_branch {i : Instr} {s : State} {taken : Bool} {imm : BitVec 13} {p : Prop} [Decidable p]
    (h : exec i s = branchTo taken (sext13 imm) s) (hp : taken = true ↔ p) :
    SeqMovesBy [i] s (if p then imm.toInt else 4) := seqMovesBy_of_movesBy (movesBy_of_branch h hp)

/-- JALR with offset 0 jumps to the register with bit 0 cleared (R143). -/
theorem seqJumps_jalr_zero (s : State) (rd rs : RegIdx) {P : XWord → Prop} (hP : P (s.pc + 4)) :
    SeqJumps [.jalr rd rs 0] s rd P ((s.x rs).toNat / 2 * 2) := by
  obtain ⟨t, ht, hw, hpc⟩ := (jumpResults s rd rs).2 0
  have hx := (s.x rs).isLt
  refine ⟨t, _, execSeq_single ht, hw, hP, hpc.trans ?_⟩
  rw [show (0 : BitVec 12).toInt = 0 from rfl]
  omega

/-- Settles O58: each expansion is one shared operation, or one of the statements above; the last clause looks at every
instruction of every expansion. -/
theorem pseudoExpansionsDoWhatTheTableSays : Obligations.PseudoExpansionsDoWhatTheTableSays := by
  intro s off joff rd rs rt imm wide
  have hzero : s.x 0 = 0#64 := rfl
  have hrs : s.x rs = 0 ↔ (s.x rs).toNat = 0 := BitVec.toNat_inj.symm
  have hnop : SeqMovesBy [.addi 0 0 0] s 4 := by
    obtain ⟨t, ht, hw⟩ := retire_next 0 (s.x 0 + sext12 0) s
    exact seqMovesBy_of_movesBy (movesBy_of_wrote_zero ht hw (add_toNat s.pc 4))
  refine ⟨hnop, rfl, seqComputes_of_retire rfl ?li, ?liWide, seqComputes_of_retire rfl ?mv,
    seqComputes_of_retire rfl ?not, seqComputes_of_retire rfl ?neg, seqComputes_of_retire rfl ?negw,
    seqComputes_of_retire rfl ?sextw, seqComputes_of_retire rfl (ofBool_toNat ?seqz), seqComputes_of_retire rfl (ofBool_toNat ?snez),
    seqComputes_of_retire rfl (ofBool_toNat (ltSigned_iff ..)), seqComputes_of_retire rfl (ofBool_toNat (ltSigned_iff ..)),
    seqMovesBy_of_branch rfl beq_iff_eq, seqMovesBy_of_branch rfl bne_iff_ne,
    seqMovesBy_of_branch rfl (not_ltSigned_iff ..), seqMovesBy_of_branch rfl (not_ltSigned_iff ..),
    seqMovesBy_of_branch rfl (ltSigned_iff ..), seqMovesBy_of_branch rfl (ltSigned_iff ..),
    seqMovesBy_of_branch rfl (ltSigned_iff ..), seqMovesBy_of_branch rfl (not_ltSigned_iff ..),
    seqMovesBy_of_branch rfl (ltUnsigned_iff ..), seqMovesBy_of_branch rfl (not_ltUnsigned_iff ..),
    ?j, ?jal, seqJumps_jalr_zero s 0 rs trivial, seqJumps_jalr_zero s 1 rs rfl, seqJumps_jalr_zero s 0 1 trivial, rfl,
    seqMovesBy_of_movesBy (fenceOnlyAdvances ..), rfl, ?wf⟩
  case li => rw [hzero, BitVec.zero_add, sext12_toInt]
  case liWide =>
    obtain ⟨i, j, t, u, hexpand, ht, hu, hw⟩ := loadImmediateExpansionLoadsTheValue s rd wide
    rw [hexpand]
    exact ⟨u, _, execSeq_pair ht hu, hw, BitVec.toInt_signExtend_of_le (by decide)⟩
  case mv => exact BitVec.add_zero _
  case not =>
    intro k hk
    have hone : (-1 : BitVec 12).getLsbD (min k 11) = true := by
      rw [show (-1 : BitVec 12) = BitVec.allOnes 12 from rfl, BitVec.getLsbD_allOnes]
      exact decide_eq_true (by omega)
    rw [BitVec.getLsbD_xor, sext12_getLsbD _ hk, hone, Bool.xor_true]
  case neg => exact (sub_toNat ..).trans (by rw [hzero]; simp)
  case negw =>
    refine sext32_low32_toInt ?_
    rw [sub_toNat, hzero]
    simp
  case sextw =>
    refine sext32_low32_toInt ?_
    rw [add_toNat, sext12_toInt, show (0 : BitVec 12).toInt = 0 from rfl, add_zero]
  case seqz =>
    rw [ltUnsigned_iff, show (sext12 1).toNat = 1 from rfl, Nat.lt_one_iff, hrs]
  case snez =>
    rw [ltUnsigned_iff, hzero, BitVec.toNat_ofNat, Nat.zero_mod, Nat.pos_iff_ne_zero, Ne, Ne, hrs]
  case j =>
    obtain ⟨t, ht, hw, hpc⟩ := (jumpResults s 0 0).1 joff
    exact seqMovesBy_of_movesBy (movesBy_of_wrote_zero ht hw hpc)
  case jal =>
    obtain ⟨t, ht, hw, hpc⟩ := (jumpResults s 1 0).1 joff
    exact ⟨t, _, execSeq_single ht, hw, rfl, hpc⟩
  case wf =>
    intro heven hjeven
    have hB : ((!off.getLsbD 0 && true) && true) = true := by rw [heven]; rfl
    have hJ : ((!joff.getLsbD 0 && true) && true) = true := by rw [hjeven]; rfl
    have hwf {p : Pseudo} (h : p.expand.all (Instr.wf false) = true) : ∀ i ∈ p.expand, i.wf false = true :=
      List.all_eq_true.mp h
    simp only [List.forall_mem_cons, List.not_mem_nil, false_imp_iff, implies_true, and_true]
    exact ⟨hwf rfl, hwf rfl, hwf rfl, hwf rfl, hwf rfl, hwf rfl, hwf rfl, hwf rfl, hwf rfl, hwf rfl, hwf rfl, hwf rfl,
      hwf hB, hwf hB, hwf hB, hwf hB, hwf hB, hwf hB, hwf hB, hwf hB, hwf hB, hwf hB, hwf hJ, hwf hJ,
      hwf rfl, hwf rfl, hwf rfl, hwf rfl, hwf rfl, hwf rfl, hwf rfl⟩

end Sys2Proof.Machine
end
